-- ==== Sys2Proof/Word.lean ====
section
/-!
DEFINITION. The words of MPCORE: `Word32` (00_scope.md R10) and the binary32 data type of the
numerics instance `NUM_F32` (00_scope.md R14).
-/

namespace Sys2Proof

/-- A `Word32`: 32 bits, bit 0 the least significant (00_scope.md R10). -/
abbrev Word32 := BitVec 32

/-- One byte of a serialised word (20_memory.md R52). -/
abbrev Byte := BitVec 8

/-- A value of the real-valued type `R` of the hardware instance `NUM_F32`: one IEEE 754 binary32
datum, held as its bit pattern, so that `enc_R` and `dec_R` are the identity (00_scope.md R14). -/
abbrev F32 := BitVec 32

end Sys2Proof
end

