-- ==== Sys2Proof/Config.lean ====
section
/-!
DEFINITION. What an instance of MPCORE fixes (the parameter record `CFG`, 00_scope.md R7) and what
the spec leaves free: the configuration functions `sin32` and `cos32` (R14), the sign and payload of
a produced NaN (93_implementation_defined.md U6) and the arbitration between ports (20_memory.md
R57). The free values are opaque: no proof can use what they are.
-/

namespace Sys2Proof

/-- The arithmetic operations of `NUM_F32` that can produce a NaN of their own (00_scope.md R14). -/
inductive FloatOp where
  | add | sub | mul | div | sqrt
deriving DecidableEq, Repr

/-- `sin32` (00_scope.md R14): nothing is assumed of it but that the result depends on the operand
alone. Log 9. -/
opaque Config.sin32 : F32 → F32

/-- `cos32` (00_scope.md R14). Log 9. -/
opaque Config.cos32 : F32 → F32

/-- The bits a produced NaN takes its sign and payload from: a free value for each operation and
operands (93_implementation_defined.md U6). Log 7. -/
opaque Config.nanBits : FloatOp → F32 → F32 → Word32

/-- The arbitration's free choice number `n` between the ports that hold a request once the schedule
says nothing more (20_memory.md R57). Log 3. -/
opaque Config.arbiter : Nat → Nat

/-- The two legal values of the numerics parameter `NUM` (00_scope.md R7). -/
inductive NumSel where
  /-- `NUM_F32`, the hardware's -/
  | f32
  /-- `NUM_REAL`, the reference's -/
  | real
deriving DecidableEq, Repr

/-- The parameter record `CFG` that is latched at the release of reset (00_scope.md R7), over the values
`R` of its numerics parameter `NUM`. -/
structure CfgOf (R : Type) where
  /-- `LOG2N`: log2 of the window size, legal 0 to 15 -/
  log2n : Nat
  /-- `SAMPLE_RATE` in Hz, legal finite and > 0 -/
  sampleRate : R
  /-- `BASE_FREQ_DEFAULT` in Hz, legal finite and > 0 -/
  baseFreqDefault : R
  /-- `AMP_DEFAULT`, legal finite and >= 0 -/
  ampDefault : R
  /-- `AMP_STEP`, legal finite and > 0 -/
  ampStep : R
deriving DecidableEq, Repr

/-- The parameter record with `NUM = NUM_F32`, the one the hardware's reset latches (log 8). -/
abbrev Cfg := CfgOf F32

/-- The instance of the source's defaults (00_scope.md R7; bit patterns 10_state.md R40): `N = 128`,
44100 Hz, 440 Hz, 0.2. `AMP_STEP` has no default in the spec; 0.05 is the model's
(DESIGN CHOICE, log 6). -/
def Cfg.default : Cfg where
  log2n := 7
  sampleRate := 0x472C4400
  baseFreqDefault := 0x43DC0000
  ampDefault := 0x3E4CCCCD
  ampStep := 0x3D4CCCCD

end Sys2Proof
end

