-- ==== Sys2Proof/Machine/Float.lean ====
section
/-!
DEFINITION. IEEE 754 binary32 arithmetic as 00_scope.md R14 fixes it: round to nearest, ties to even,
no flush of subnormals, no trap, no flag. Every finite datum is an integer multiple of `2^-149`, so
its value is held exactly as that integer, every operation is computed exactly on integers, and one
rounding operation `roundMag` narrows the result. PRESUMED where the spec only names IEEE 754 (log 16).
-/

namespace Sys2Proof

/-- The sign bit, bit 31 (00_scope.md R14). -/
def F32.sign (x : F32) : Bool := x.getLsbD 31

/-- The exponent field, bits 30:23. -/
def F32.expField (x : F32) : Nat := (x.extractLsb' 23 8).toNat

/-- The fraction field, bits 22:0. -/
def F32.frac (x : F32) : Nat := (x.extractLsb' 0 23).toNat

/-- `isfinite` (00_scope.md R12, R14): false exactly for infinities and NaNs. -/
def F32.isFinite (x : F32) : Bool := x.expField != 255

/-- A NaN, quiet or signalling (60_exceptions.md R207). -/
def F32.isNaN (x : F32) : Bool := x.expField == 255 && x.frac != 0

/-- An infinity. -/
def F32.isInf (x : F32) : Bool := x.expField == 255 && x.frac == 0

/-- The magnitude in units of `2^-149`. An infinity reads as the first value above the finite range,
which orders it correctly. -/
def F32.mag (x : F32) : Nat :=
  if x.expField = 0 then x.frac else (x.frac + 2 ^ 23) <<< (x.expField - 1)

/-- The value in units of `2^-149`. -/
def F32.toInt (x : F32) : Int := if x.sign then -(x.mag : Int) else x.mag

/-- Positive infinity. -/
def F32.inf : F32 := 0x7F800000

/-- `num / den` rounded to the nearest integer, ties to even. -/
def F32.nearestEven (num den : Nat) : Nat :=
  let q := num / den
  let r := num % den
  if 2 * r < den then q else if den < 2 * r then q + 1 else q + q % 2

/-- The bit pattern (without sign) of the non-negative value `num / den` in units of `2^-149`, rounded
to nearest, ties to even; a value that rounds past the largest finite datum gives the infinity.
`e` is the spacing's exponent: 24 significant bits are kept, all of them integers when `e = 0`. -/
def F32.roundMag (num den : Nat) : Nat :=
  let e := Nat.log2 (num / den) - 23
  min (e * 2 ^ 23 + F32.nearestEven num (den <<< e)) 0x7F800000

/-- A datum from its sign and the rest of its bits. -/
def F32.pack (neg : Bool) (bits : Nat) : F32 :=
  BitVec.ofNat 32 (if neg then bits + 2 ^ 31 else bits)

/-- The NaN that operation `op` produces on its operands: quiet, its sign and payload free
(00_scope.md R14, 93_implementation_defined.md U6, log 7). -/
def F32.freeNaN (op : FloatOp) (x y : F32) : F32 := Config.nanBits op x y ||| 0x7FC00000

/-- `neg` (00_scope.md R14): flips the sign bit. -/
def F32.neg (x : F32) : F32 := x ^^^ 0x80000000

/-- The sum of two data, `nan` standing for the NaN of an invalid operation or a NaN operand. An exact
zero is `-0` only where both operands are negative zeros. -/
def F32.sum (nan x y : F32) : F32 :=
  if x.isNaN || y.isNaN then nan
  else if x.isInf then (if y.isInf && x.sign != y.sign then nan else x)
  else if y.isInf then y
  else
    let s := x.toInt + y.toInt
    if s = 0 then F32.pack (x.sign && y.sign) 0 else F32.pack (decide (s < 0)) (F32.roundMag s.natAbs 1)

/-- `add` (00_scope.md R12, R14). -/
def F32.add (x y : F32) : F32 := F32.sum (F32.freeNaN .add x y) x y

/-- `sub` (00_scope.md R12, R14). -/
def F32.sub (x y : F32) : F32 := F32.sum (F32.freeNaN .sub x y) x y.neg

/-- `mul` (00_scope.md R12, R14). -/
def F32.mul (x y : F32) : F32 :=
  if x.isNaN || y.isNaN then F32.freeNaN .mul x y
  else
    let s := x.sign != y.sign
    if x.isInf || y.isInf then
      if x.mag = 0 || y.mag = 0 then F32.freeNaN .mul x y else F32.pack s 0x7F800000
    else F32.pack s (F32.roundMag (x.mag * y.mag) (2 ^ 149))

/-- `div` (00_scope.md R12, R14). The spec applies it to no zero divisor; there IEEE 754 gives an
infinity or a NaN. -/
def F32.div (x y : F32) : F32 :=
  if x.isNaN || y.isNaN then F32.freeNaN .div x y
  else
    let s := x.sign != y.sign
    if x.isInf then (if y.isInf then F32.freeNaN .div x y else F32.pack s 0x7F800000)
    else if y.isInf then F32.pack s 0
    else if y.mag = 0 then
      if x.mag = 0 then F32.freeNaN .div x y else F32.pack s 0x7F800000
    else F32.pack s (F32.roundMag (x.mag * 2 ^ 149) y.mag)

/-- The integer square root of `m` to `bits` binary digits, one digit a level; `root` holds the digits
found so far. -/
def F32.rootDigits (m : Nat) : (bits : Nat) → (root : Nat) → Nat
  | 0, root => root
  | k + 1, root =>
    if (root + 2 ^ k) * (root + 2 ^ k) ≤ m then F32.rootDigits m k (root + 2 ^ k)
    else F32.rootDigits m k root

/-- The greatest integer whose square is at most `m`, for `m < 2^428`. -/
def F32.isqrt (m : Nat) : Nat := F32.rootDigits m 214 0

/-- `sqrt` (00_scope.md R12, R14). A root that is no integer (in units of `2^-149`) is rounded from the
middle of the interval that holds it, which no tie and no datum divides. -/
def F32.sqrt (x : F32) : F32 :=
  if x.isNaN then F32.freeNaN .sqrt x x
  else if x.mag = 0 then x
  else if x.sign then F32.freeNaN .sqrt x x
  else if x.isInf then x
  else
    let m := x.mag * 2 ^ 149
    let r := F32.isqrt m
    F32.pack false (F32.roundMag (if r * r = m then 2 * r else 2 * r + 1) 2)

/-- `lt` (00_scope.md R14): false whenever an operand is a NaN; `-0` and `+0` are equal. -/
def F32.lt (x y : F32) : Bool := !x.isNaN && !y.isNaN && decide (x.toInt < y.toInt)

/-- `le` (00_scope.md R14). -/
def F32.le (x y : F32) : Bool := !x.isNaN && !y.isNaN && decide (x.toInt ≤ y.toInt)

/-- `ofInt` (00_scope.md R12): exact for every integer of magnitude up to `2^24`. -/
def F32.ofInt (n : Int) : F32 := F32.pack (decide (n < 0)) (F32.roundMag (n.natAbs * 2 ^ 149) 1)

/-- `pow2_12` (00_scope.md R14): the table of `2^(n/12)` rounded to nearest. -/
def F32.pow2Table (n : Fin 12) : F32 :=
  match n.val with
  | 0 => 0x3F800000
  | 1 => 0x3F879C7D
  | 2 => 0x3F8FACD6
  | 3 => 0x3F9837F0
  | 4 => 0x3FA14518
  | 5 => 0x3FAADC08
  | 6 => 0x3FB504F3
  | 7 => 0x3FBFC887
  | 8 => 0x3FCB2FF5
  | 9 => 0x3FD744FD
  | 10 => 0x3FE411F0
  | _ => 0x3FF1A1BF

end Sys2Proof
end

