-- ==== Sys2Proof/Machine/Numerics.lean ====
section
/-!
DEFINITION. The numerics record `NUM` (00_scope.md R12) that every arithmetic rule is written over, its
hardware instance `NUM_F32` (R14) and the complex operations (R15). The reference instance `NUM_REAL`
(R13) stands in Machine/Reference.lean.
-/

namespace Sys2Proof.Machine

open Sys2Proof

/-- The numerics record (00_scope.md R12). `gt`, `ge` and `SEMI` are derived from it below. -/
structure Num (R : Type) where
  /-- which of the two records it is (00_scope.md R7), as `CFG.NUMSEL` reads it (10_state.md R34) -/
  sel : NumSel
  /-- an integer as a value of `R` -/
  ofInt : Int → R
  add : R → R → R
  sub : R → R → R
  mul : R → R → R
  div : R → R → R
  neg : R → R
  lt : R → R → Bool
  le : R → R → Bool
  sin : R → R
  cos : R → R
  sqrt : R → R
  /-- `PI` -/
  pi : R
  /-- `PI2` -/
  pi2 : R
  /-- `pow2_12`: `2^(n/12)` for `0 <= n <= 11` -/
  pow2 : Fin 12 → R
  isFinite : R → Bool

/-- `ge(a, b) = le(b, a)` (00_scope.md R12). -/
def Num.ge {R : Type} (num : Num R) (a b : R) : Bool := num.le b a

/-- `gt(a, b) = lt(b, a)` (00_scope.md R12). -/
def Num.gt {R : Type} (num : Num R) (a b : R) : Bool := num.lt b a

/-- `SEMI = pow2_12(1)` (00_scope.md R12). -/
def Num.semi {R : Type} (num : Num R) : R := num.pow2 1

/-- `NUM_F32` over given trigonometric functions (00_scope.md R14: `sin32` and `cos32` are
configuration functions). -/
def Num.f32With (sin32 cos32 : F32 → F32) : Num F32 where
  sel := .f32
  ofInt := F32.ofInt
  add := F32.add
  sub := F32.sub
  mul := F32.mul
  div := F32.div
  neg := F32.neg
  lt := F32.lt
  le := F32.le
  sin := sin32
  cos := cos32
  sqrt := F32.sqrt
  pi := 0x40490FDB
  pi2 := 0x40C90FDB
  pow2 := F32.pow2Table
  isFinite := F32.isFinite

/-- `NUM_F32`, the hardware instance (00_scope.md R14). -/
def Num.f32 : Num F32 := Num.f32With Config.sin32 Config.cos32

/-- `enc_R` of `NUM_F32` (00_scope.md R14): the bit pattern. -/
def encR (v : F32) : Word32 := v

/-- `dec_R` of `NUM_F32` (00_scope.md R14): the reading of a bit pattern. -/
def decR (w : Word32) : F32 := w

/-- `cadd` (00_scope.md R15). -/
def Num.cadd {R : Type} (num : Num R) (x y : R × R) : R × R := (num.add x.1 y.1, num.add x.2 y.2)

/-- `csub` (00_scope.md R15). -/
def Num.csub {R : Type} (num : Num R) (x y : R × R) : R × R := (num.sub x.1 y.1, num.sub x.2 y.2)

/-- `cmul` (00_scope.md R15): four products, one difference, one sum, no fused operation. -/
def Num.cmul {R : Type} (num : Num R) (x y : R × R) : R × R :=
  (num.sub (num.mul x.1 y.1) (num.mul x.2 y.2), num.add (num.mul x.1 y.2) (num.mul x.2 y.1))

/-- `cexpm` (00_scope.md R15): `e^(-i t)`. -/
def Num.cexpm {R : Type} (num : Num R) (t : R) : R × R := (num.cos t, num.neg (num.sin t))

/-- `cabs` (00_scope.md R15): the Euclidean modulus. -/
def Num.cabs {R : Type} (num : Num R) (x : R × R) : R :=
  num.sqrt (num.add (num.mul x.1 x.1) (num.mul x.2 x.2))

/-- `ofReal` (00_scope.md R15). -/
def Num.ofReal {R : Type} (num : Num R) (a : R) : R × R := (a, num.ofInt 0)

end Sys2Proof.Machine
end

