-- ==== Sys2Proof/Syntax.lean ====
section
/-!
DEFINITION. The eighteen commands of MPCORE (30_encoding.md R76), one constructor per row of the
opcode table. An `FA` command carries its 16-bit `arg` as it stands and an `FD` command its operand
word; whether the argument is legal is checked when the command executes (R79 steps 3 and 4).
-/

namespace Sys2Proof

/-- A command: what the encoding check of 30_encoding.md R79 step 1 leaves of a request. -/
inductive Instr where
  /-- `RDREG r` (R190) -/
  | rdreg (r : BitVec 16)
  /-- `SETBASE v` (R172) -/
  | setbase (v : F32)
  /-- `TRUP` (R173) -/
  | trup
  /-- `TRDN` (R174) -/
  | trdn
  /-- `NOTE s` (R175) -/
  | note (s : BitVec 16)
  /-- `WAVE w` (R176) -/
  | wave (w : BitVec 16)
  /-- `AMPUP` (R177) -/
  | ampup
  /-- `AMPDN` (R178) -/
  | ampdn
  /-- `CLRERR` (R179) -/
  | clrerr
  /-- `TICK` (R100) -/
  | tick
  /-- `PUSH v` (R121) -/
  | push (v : F32)
  /-- `SNAP` (R123) -/
  | snap
  /-- `FFT` (R147) -/
  | fft
  /-- `MAG` (R161) -/
  | mag
  /-- `RDSNAP i` (R125) -/
  | rdsnap (i : BitVec 16)
  /-- `RDRE k` (R148) -/
  | rdre (k : BitVec 16)
  /-- `RDIM k` (R149) -/
  | rdim (k : BitVec 16)
  /-- `RDBIN k` (R163) -/
  | rdbin (k : BitVec 16)
deriving DecidableEq, Repr

end Sys2Proof
end

