-- ==== Sys2Proof/Decode.lean ====
section
/-!
DEFINITION. The encoding check and the decoder of a request (30_encoding.md R70 to R77, R79 step 1),
total on every pair of words, and after it the encoder from the same map. Which port a request came
on, its argument's range and its operand's finiteness are checked later, by the command's meaning.
-/

namespace Sys2Proof

/-- Why a request is no command; every one of these raises `ERR_ILLEGAL` (30_encoding.md R77). -/
inductive DecodeError where
  /-- `op` is not one of the eighteen opcodes -/
  | unknownOpcode
  /-- `rsv` is not zero -/
  | reservedNonzero
  /-- `arg` is not zero in a command of format `F0` or `FD` -/
  | argNonzero
  /-- a serialised request that does not have exactly eight bytes (R70: one request length) -/
  | wrongLength
deriving DecidableEq, Repr

/-- The three formats of 30_encoding.md R71. -/
inductive Format where
  | f0 | fa | fd
deriving DecidableEq, Repr

/-- `op = cw[31:24]` (30_encoding.md R71). -/
def opField (cw : Word32) : BitVec 8 := cw.extractLsb' 24 8

/-- `rsv = cw[23:16]`. -/
def rsvField (cw : Word32) : BitVec 8 := cw.extractLsb' 16 8

/-- `arg = cw[15:0]`, an unsigned integer as it stands (R72). -/
def argField (cw : Word32) : BitVec 16 := cw.extractLsb' 0 16

/-- A command of format `FA` (R71): `rsv` must be zero. -/
def decodeFA (cw : Word32) (command : BitVec 16 → Instr) : Except DecodeError Instr :=
  if rsvField cw = 0 then .ok (command (argField cw)) else .error .reservedNonzero

/-- A command of format `F0` or `FD` (R71): `rsv` and `arg` must be zero. -/
def decodeBare (cw : Word32) (command : Instr) : Except DecodeError Instr :=
  if rsvField cw = 0 then
    if argField cw = 0 then .ok command else .error .argNonzero
  else .error .reservedNonzero

/-- The decoder (30_encoding.md R76, R77, R79 step 1). -/
def decode (cw data : Word32) : Except DecodeError Instr :=
  match opField cw with
  | 0x01 => decodeFA cw .rdreg
  | 0x10 => decodeBare cw (.setbase (Machine.decR data))
  | 0x11 => decodeBare cw .trup
  | 0x12 => decodeBare cw .trdn
  | 0x13 => decodeFA cw .note
  | 0x14 => decodeFA cw .wave
  | 0x15 => decodeBare cw .ampup
  | 0x16 => decodeBare cw .ampdn
  | 0x17 => decodeBare cw .clrerr
  | 0x20 => decodeBare cw .tick
  | 0x21 => decodeBare cw (.push (Machine.decR data))
  | 0x30 => decodeBare cw .snap
  | 0x31 => decodeBare cw .fft
  | 0x32 => decodeBare cw .mag
  | 0x33 => decodeFA cw .rdsnap
  | 0x34 => decodeFA cw .rdre
  | 0x35 => decodeFA cw .rdim
  | 0x36 => decodeFA cw .rdbin
  | _ => .error .unknownOpcode

/-- The opcode of a command (30_encoding.md R76). -/
def Instr.opcode : Instr → BitVec 8
  | .rdreg _ => 0x01
  | .setbase _ => 0x10
  | .trup => 0x11
  | .trdn => 0x12
  | .note _ => 0x13
  | .wave _ => 0x14
  | .ampup => 0x15
  | .ampdn => 0x16
  | .clrerr => 0x17
  | .tick => 0x20
  | .push _ => 0x21
  | .snap => 0x30
  | .fft => 0x31
  | .mag => 0x32
  | .rdsnap _ => 0x33
  | .rdre _ => 0x34
  | .rdim _ => 0x35
  | .rdbin _ => 0x36

/-- The format of a command (30_encoding.md R71, R76). -/
def Instr.format : Instr → Format
  | .rdreg _ | .note _ | .wave _ | .rdsnap _ | .rdre _ | .rdim _ | .rdbin _ => .fa
  | .setbase _ | .push _ => .fd
  | .trup | .trdn | .ampup | .ampdn | .clrerr | .tick | .snap | .fft | .mag => .f0

/-- The `arg` field of a command: its argument, zero where it takes none (R71). -/
def Instr.arg : Instr → BitVec 16
  | .rdreg a | .note a | .wave a | .rdsnap a | .rdre a | .rdim a | .rdbin a => a
  | .setbase _ | .push _ => 0
  | .trup | .trdn | .ampup | .ampdn | .clrerr | .tick | .snap | .fft | .mag => 0

/-- The operand word of a command: `enc_R` of the operand of an `FD` command; the other commands
ignore it and the encoder writes zero (R71, log 17). -/
def Instr.data : Instr → Word32
  | .setbase v | .push v => Machine.encR v
  | .rdreg _ | .note _ | .wave _ | .rdsnap _ | .rdre _ | .rdim _ | .rdbin _ => 0
  | .trup | .trdn | .ampup | .ampdn | .clrerr | .tick | .snap | .fft | .mag => 0

/-- The encoder: the command word and the operand word of a command (R70, R71). -/
def encode (i : Instr) : Word32 × Word32 := (i.opcode ++ 0#8 ++ i.arg, i.data)

/-- A serialised word, byte 0 first: little-endian (20_memory.md R52). -/
def wordBytes (w : Word32) : List Byte :=
  [w.extractLsb' 0 8, w.extractLsb' 8 8, w.extractLsb' 16 8, w.extractLsb' 24 8]

/-- The word that four bytes carry, byte 0 in bits 7:0 (20_memory.md R52). -/
def bytesWord (b0 b1 b2 b3 : Byte) : Word32 := b3 ++ b2 ++ b1 ++ b0

/-- The decoder on a serialised request: the command word's four bytes, then the operand word's
(R52, R70, log 18). -/
def decodeBytes : List Byte → Except DecodeError Instr
  | [a0, a1, a2, a3, d0, d1, d2, d3] => decode (bytesWord a0 a1 a2 a3) (bytesWord d0 d1 d2 d3)
  | _ => .error .wrongLength

/-- The command word of a table-numbered instruction: its first 32 bits. -/
def tableCw (w : Nat) : Word32 := BitVec.ofNat 32 w

/-- The operand word of a table-numbered instruction: the bits after the command word, zero from bit
`nbits` on. -/
def tableData (nbits w : Nat) : Word32 := BitVec.ofNat 32 ((w % 2 ^ nbits) / 2 ^ 32)

/-- What the decoder reads from an instruction numbered as spec/opcode_table.json numbers it: bit 0 is
the least significant bit of the command word, the operand word follows, bits from `nbits` on are
zero. The two words are laid out as bytes and given to the decoder. -/
def decodeTableWord (nbits w : Nat) : Option Instr :=
  match decodeBytes (wordBytes (tableCw w) ++ wordBytes (tableData nbits w)) with
  | .ok i => some i
  | .error _ => none

end Sys2Proof
end

