-- ==== Sys2Proof/Machine/State.lean ====
section
/-!
DEFINITION. The state of MPCORE as plain data (10_state.md R20 to R40, 20_memory.md R50), the
interface state of its ports and reset input (00_scope.md R17, 70_reset_and_hazards.md R230), the ways
a step can stop, and the state right after reset.
-/

namespace Sys2Proof.Machine

open Sys2Proof

/-- The three command ports (00_scope.md R3). -/
inductive Port where
  /-- control -/
  | C
  /-- synthesis -/
  | S
  /-- analysis -/
  | A
deriving DecidableEq, Repr, Inhabited

/-- The waveform kinds (10_state.md R21), in the order of their numbers 0 to 3. -/
inductive Wave where
  | sine | square | triangle | sawtooth
deriving DecidableEq, Repr

/-- The error codes (60_exceptions.md R200), in the order of their numbers 1 to 5. -/
inductive ErrCode where
  /-- `ERR_ILLEGAL`, R203 -/
  | illegal
  /-- `ERR_PORT`, R204 -/
  | port
  /-- `ERR_ARG`, R205 -/
  | arg
  /-- `ERR_INDEX`, R206 -/
  | index
  /-- `ERR_NONFINITE`, R207 -/
  | nonfinite
deriving DecidableEq, Repr

/-- The registers `RDREG` reads (10_state.md R37), in the order of their numbers 0x00 to 0x0D. -/
inductive Reg where
  | id | cfg | status | err | wave | semitone | baseFreq | targetFreq | amplitude | sampleRate
  | phase | ampStep | wr | fill
deriving DecidableEq, Repr

/-- The element memories (20_memory.md R50). -/
inductive Space where
  | win | snap | xre | xim | freq
deriving DecidableEq, Repr

/-- An element memory: the elements that differ from `+0`, each with its index, indices rising
(20_memory.md R50; the element is the smallest unit there is, R52, log 10). -/
abbrev Memory := List (Nat × F32)

/-- A request: the command word and the operand word (30_encoding.md R70). -/
structure Request where
  cw : Word32
  data : Word32
deriving DecidableEq, Repr

/-- A response (30_encoding.md R74) and the port it was given on. -/
structure Response where
  port : Port
  ok : Bool
  resp : Word32
deriving DecidableEq, Repr

/-- What can happen next in the total order of steps (20_memory.md R57, 70_reset_and_hazards.md R231):
the host presents a request on a port, the block takes the step of a port's outstanding request, `rst`
is asserted, `rst` is released with the parameters `CFG`. Log 1. -/
inductive Event where
  | issue (p : Port) (r : Request)
  | serve (p : Port)
  | assertReset
  | releaseReset (c : Cfg)
deriving DecidableEq, Repr

/-- The state of the block, of its ports, and what the model keeps beside it (INVENTORY.md, State). -/
structure State where
  /-- `WAVE` (10_state.md R21) -/
  wave : Wave
  /-- `PHASE` (R22) -/
  phase : F32
  /-- `TARGET_FREQ` (R23) -/
  targetFreq : F32
  /-- `AMPLITUDE` (R24) -/
  amplitude : F32
  /-- `SAMPLE_RATE` (R25) -/
  sampleRate : F32
  /-- `TRI_DIR` (R26), true is `UP` -/
  triDir : Bool
  /-- `BASE_FREQ` (R27) -/
  baseFreq : F32
  /-- `SEMITONE` (R28), 0 to 11 -/
  semitone : Fin 12
  /-- `AMP_STEP` (R29) -/
  ampStep : F32
  /-- `WR` (R30) -/
  wr : Nat
  /-- `FILL` (R31) -/
  fill : Nat
  /-- `SNAPV` (R32) -/
  snapv : Bool
  /-- `SPECV` (R32) -/
  specv : Bool
  /-- `MAGV` (R32) -/
  magv : Bool
  /-- `ERR` (R35) -/
  err : Word32
  /-- `WIN`, the ring (20_memory.md R50) -/
  win : Memory
  /-- `SNAP`, the snapshot -/
  snap : Memory
  /-- `XRE`, real parts of the spectrum -/
  xre : Memory
  /-- `XIM`, imaginary parts of the spectrum -/
  xim : Memory
  /-- `FREQ`, the Frequency Array -/
  freq : Memory
  /-- `LOG2N`, latched at the release of reset (00_scope.md R7, R8) -/
  log2n : Fin 16
  /-- `s_out`, oldest first (10_state.md R36) -/
  sOut : List F32
  /-- the level of the reset input (70_reset_and_hazards.md R230) -/
  rst : Bool
  /-- the outstanding request of port `C` (00_scope.md R17) -/
  reqC : Option Request
  /-- the outstanding request of port `S` -/
  reqS : Option Request
  /-- the outstanding request of port `A` -/
  reqA : Option Request
  /-- the responses given since reset, oldest first (30_encoding.md R74) -/
  responses : List Response
  /-- the model's: the port whose request the current step serves (log 5) -/
  port : Port
  /-- the model's: some command was rejected since reset (60_exceptions.md R221) -/
  everRejected : Bool
  /-- the model's: what happens next, oldest first (log 1) -/
  schedule : List Event
  /-- the model's: how many free arbitration choices were drawn (log 3) -/
  arb : Nat
deriving DecidableEq, Repr

/-- `N = 2^LOG2N` (00_scope.md R7). -/
abbrev State.size (s : State) : Nat := 2 ^ s.log2n.val

/-- The faults of the model. The block itself has none (93_implementation_defined.md part 1). -/
inductive Fault where
  /-- Raised by the push primitive in a state whose write index is not below `N`, where the element to
  write does not exist (20_memory.md R50, R62). Safe: no state with `WR < N` raises it (log 11). -/
  | elementOutside (space : Space) (index : Nat)
deriving DecidableEq, Repr

/-- The refusals of the model. -/
inductive Refusal where
  /-- Raised by an arm of `exec` whose command has no meaning in the model; no arm raises it. Safe. -/
  | notModelled (mnemonic : String)
  /-- Raised by a release of reset whose parameters are outside the legal values: the model does not
  build such an instance (00_scope.md R8, 93_implementation_defined.md U1). Safe (log 12). -/
  | illegalCfg
deriving DecidableEq, Repr

/-- What a step answers. -/
abbrev Result := Host.Outcome State Fault Refusal

/-- The state right after the release of reset with the parameters `c` (10_state.md R40,
70_reset_and_hazards.md R230). `TARGET_FREQ` is written as R23 gives it. -/
def State.resetWith (c : Cfg) : State where
  wave := .sine
  phase := Num.f32.ofInt 0
  targetFreq := Num.f32.mul c.baseFreqDefault (Num.f32.pow2 0)
  amplitude := c.ampDefault
  sampleRate := c.sampleRate
  triDir := true
  baseFreq := c.baseFreqDefault
  semitone := 0
  ampStep := c.ampStep
  wr := 0
  fill := 0
  snapv := false
  specv := false
  magv := false
  err := 0
  win := []
  snap := []
  xre := []
  xim := []
  freq := []
  log2n := Fin.ofNat 16 c.log2n
  sOut := []
  rst := false
  reqC := none
  reqS := none
  reqA := none
  responses := []
  port := .C
  everRejected := false
  schedule := []
  arb := 0

/-- The machine right after reset: the instance of the default parameters (00_scope.md R7, log 6). -/
def State.reset : State := State.resetWith Cfg.default

end Sys2Proof.Machine
end

