-- ==== Sys2Proof/Machine/Flags.lean ====
section
/-!
DEFINITION. The flags: `WARM` and `ERRV` (views), the validity flags and their updates, and the
`STATUS` word (10_state.md R32); the fields of `ERR` (R35).
-/

namespace Sys2Proof.Machine

open Sys2Proof

/-- `ERR.CODE`, bits 3:0 (10_state.md R35). -/
def errCode (err : Word32) : BitVec 4 := err.extractLsb' 0 4

/-- `ERR.PORT`, bits 5:4. -/
def errPort (err : Word32) : BitVec 2 := err.extractLsb' 4 2

/-- `ERR.OPC`, bits 15:8. -/
def errOpc (err : Word32) : BitVec 8 := err.extractLsb' 8 8

/-- `portnum` (60_exceptions.md R201). -/
def Port.num : Port → BitVec 2
  | .C => 0
  | .S => 1
  | .A => 2

/-- The number of an error code (60_exceptions.md R200). -/
def ErrCode.num : ErrCode → BitVec 4
  | .illegal => 1
  | .port => 2
  | .arg => 3
  | .index => 4
  | .nonfinite => 5

/-- The word a rejection records (60_exceptions.md R201): code, port, bits 31:24 of the command word,
reserved bits zero. -/
def errWord (op : BitVec 8) (p : Port) (code : ErrCode) : Word32 :=
  0#16 ++ op ++ 0#2 ++ p.num ++ code.num

/-- `STATUS.WARM`: `FILL = N` (10_state.md R31, R32). -/
def State.warm (s : State) : Bool := s.fill == s.size

/-- `STATUS.ERRV`: `ERR.CODE != 0` (10_state.md R32). -/
def State.errv (s : State) : Bool := errCode s.err != 0

/-- The `STATUS` word of its flags (10_state.md R32): bit 0 `WARM`, 1 `SNAPV`, 2 `SPECV`, 3 `MAGV`,
4 `TRI_DIR`, 5 `ERRV`, the rest zero. -/
def statusWord (warm snapv specv magv triDir errv : Bool) : Word32 :=
  0#26 ++ BitVec.ofBool errv ++ BitVec.ofBool triDir ++ BitVec.ofBool magv ++ BitVec.ofBool specv
    ++ BitVec.ofBool snapv ++ BitVec.ofBool warm

/-- `STATUS` (10_state.md R32). -/
def State.status (s : State) : Word32 :=
  statusWord s.warm s.snapv s.specv s.magv s.triDir s.errv

/-- The validity flags after `SNAP` (41_sample_window_buffer.md R123). -/
def State.flagsAfterSnap (s : State) : State := { s with snapv := true, specv := false, magv := false }

/-- The validity flags after `FFT` (42_fft_butterfly.md R147). -/
def State.flagsAfterFft (s : State) : State := { s with specv := true, magv := false }

/-- The validity flags after `MAG` (43_magnitude_extractor.md R161): `MAGV <- SPECV`. -/
def State.flagsAfterMag (s : State) : State := { s with magv := s.specv }

end Sys2Proof.Machine
end

