-- ==== Sys2Proof/Machine/Ops.lean ====
section
/-!
DEFINITION. The named operations of the rules' pseudocode (00_scope.md R11): reading and writing the
element memories, `respond`, `emit`, the rejection `raise Err(code)` (60_exceptions.md R201, the block's
one exceptional mechanism) with the clear of `ERR` beside it, and the legality of a `CFG`.
-/

namespace Sys2Proof.Machine

open Sys2Proof

/-- What an element that nothing has written reads as: `ofInt(0)`, which is `+0` (10_state.md R40). -/
def Memory.blank : F32 := 0

/-- Element `i` of a memory. -/
def Memory.read : Memory → Nat → F32
  | [], _ => Memory.blank
  | (a, v) :: m, i => if a = i then v else Memory.read m i

/-- Write element `i`, keeping the canonical form: indices rise, no element equals the blank one. -/
def Memory.write : Memory → Nat → F32 → Memory
  | [], i, v => if v = Memory.blank then [] else [(i, v)]
  | (a, w) :: m, i, v =>
    if i < a then (if v = Memory.blank then (a, w) :: m else (i, v) :: (a, w) :: m)
    else if i = a then (if v = Memory.blank then m else (i, v) :: m)
    else (a, w) :: Memory.write m i v

/-- The memory of `n` elements whose element `i` is `f i`: all `n` written at once (20_memory.md R54). -/
def Memory.fill (n : Nat) (f : Nat → F32) : Memory :=
  ((List.range n).map fun i => (i, f i)).filter fun c => c.2 != Memory.blank

/-- The canonical form: indices strictly rising, no element listed that equals the blank one. -/
abbrev Memory.wf (m : Memory) : Prop :=
  m.Pairwise (fun a b => a.1 < b.1) ∧ ∀ c ∈ m, c.2 ≠ Memory.blank

/-- No element at an index of `n` or above is listed (20_memory.md R50: `N` elements). -/
abbrev Memory.within (n : Nat) (m : Memory) : Prop := ∀ c ∈ m, c.1 < n

/-- The memory of a space (20_memory.md R50). -/
def State.memory (s : State) : Space → Memory
  | .win => s.win
  | .snap => s.snap
  | .xre => s.xre
  | .xim => s.xim
  | .freq => s.freq

/-- `MemRead(space, i)` (00_scope.md R11). -/
def State.memRead (s : State) (sp : Space) (i : Nat) : F32 := (s.memory sp).read i

/-- Element `k` of the spectrum, `X[k] = (XRE[k], XIM[k])` (20_memory.md R50). -/
def State.spectrum (s : State) (k : Nat) : F32 × F32 := (s.memRead .xre k, s.memRead .xim k)

/-- `respond(v)` (00_scope.md R11, 30_encoding.md R74): the response `ok = 1` with payload `v`, on the
port being served. -/
def State.respond (v : Word32) (s : State) : State :=
  { s with responses := s.responses ++ [⟨s.port, true, v⟩] }

/-- `emit(v)` (00_scope.md R11, 10_state.md R36). -/
def State.emit (v : F32) (s : State) : State := { s with sOut := s.sOut ++ [v] }

/-- The rejection step `Reject(p, cw, code)` (60_exceptions.md R201, R202): `ERR` records the command's
opcode bits, the port and the code unless it already holds an error; the response is `ok = 0` with the
code; nothing else of the block changes. The model's mark beside `ERR` is set (R221). -/
def State.reject (op : BitVec 8) (code : ErrCode) (s : State) : State :=
  { s with
    err := if errCode s.err = 0 then errWord op s.port code else s.err
    responses := s.responses ++ [⟨s.port, false, code.num.setWidth 32⟩]
    everRejected := true }

/-- The clear of `ERR` (44_control_surface.md R179), the nearest thing to a return (60_exceptions.md
R211): it re-arms the record of the first error and restores nothing. -/
def State.clearErr (s : State) : State := { s with err := 0 }

/-- Apply `f` to the state of a next outcome. -/
def mapNext (f : State → State) : Result → Result
  | .next s => .next (f s)
  | .fault r => .fault r
  | .refused r => .refused r

/-- The push primitive (41_sample_window_buffer.md R120): write at `WR`, advance `WR` modulo `N`, count
in `FILL` up to `N`. -/
def State.pushSample (v : F32) (s : State) : Result :=
  if s.wr < s.size then
    .next { s with
      win := s.win.write s.wr v
      wr := (s.wr + 1) % s.size
      fill := min (s.fill + 1) s.size }
  else .fault (.elementOutside .win s.wr)

/-- `mul(base, pow2_12(semitone))`, the source's `base * 2^(semitone/12)` (44_control_surface.md R171). -/
def Num.retarget {R : Type} (num : Num R) (base : R) (semitone : Fin 12) : R :=
  num.mul base (num.pow2 semitone)

/-- `Retarget` (44_control_surface.md R171). -/
def State.retarget (s : State) : State :=
  { s with targetFreq := Num.f32.retarget s.baseFreq s.semitone }

/-- The legal values of the parameter record, over the numerics `num` (00_scope.md R7, premise `P_CFG` of
R236). -/
def CfgOf.legal {R : Type} (num : Num R) (c : CfgOf R) : Bool :=
  decide (c.log2n ≤ 15)
    && (num.isFinite c.sampleRate && num.gt c.sampleRate (num.ofInt 0))
    && (num.isFinite c.baseFreqDefault && num.gt c.baseFreqDefault (num.ofInt 0))
    && (num.isFinite c.ampDefault && num.ge c.ampDefault (num.ofInt 0))
    && (num.isFinite c.ampStep && num.gt c.ampStep (num.ofInt 0))

/-- The legal values of the hardware's parameter record (00_scope.md R7). -/
def legalCfg (c : Cfg) : Bool := CfgOf.legal Num.f32 c

end Sys2Proof.Machine
end

