-- ==== Sys2Proof/Machine/Operands.lean ====
section
/-!
DEFINITION. The checks between decoding and executing a command (30_encoding.md R78, R79 steps 2 to 4):
the port rights, every operand form with its legal range, and the one admission operation that applies
them in their order.
-/

namespace Sys2Proof.Machine

open Sys2Proof

/-- The port rights (30_encoding.md R76, 60_exceptions.md R213): whether a command is accepted on a
port. -/
def mayIssue : Instr → Port → Bool
  | .rdreg _, _ => true
  | .setbase _, p | .trup, p | .trdn, p | .note _, p | .wave _, p | .ampup, p | .ampdn, p
  | .clrerr, p => p == .C
  | .tick, p | .push _, p => p == .S
  | .snap, p | .fft, p | .mag, p | .rdsnap _, p | .rdre _, p | .rdim _, p | .rdbin _, p => p == .A

/-- The register of a number (10_state.md R37). -/
def Reg.ofNumber : Nat → Option Reg
  | 0x00 => some .id
  | 0x01 => some .cfg
  | 0x02 => some .status
  | 0x03 => some .err
  | 0x04 => some .wave
  | 0x05 => some .semitone
  | 0x06 => some .baseFreq
  | 0x07 => some .targetFreq
  | 0x08 => some .amplitude
  | 0x09 => some .sampleRate
  | 0x0A => some .phase
  | 0x0B => some .ampStep
  | 0x0C => some .wr
  | 0x0D => some .fill
  | _ => none

/-- The waveform of a number (10_state.md R21). -/
def Wave.ofNumber : Nat → Option Wave
  | 0 => some .sine
  | 1 => some .square
  | 2 => some .triangle
  | 3 => some .sawtooth
  | _ => none

/-- The number of a waveform (10_state.md R21). -/
def Wave.num : Wave → BitVec 2
  | .sine => 0
  | .square => 1
  | .triangle => 2
  | .sawtooth => 3

/-- A command without an operand has nothing to check. -/
def noOperand : Except ErrCode Unit := .ok ()

/-- A register number (30_encoding.md R73): 0x0000 to 0x000D, else `ERR_ARG`. -/
def regOperand (arg : BitVec 16) : Except ErrCode Reg :=
  match Reg.ofNumber arg.toNat with
  | some r => .ok r
  | none => .error .arg

/-- A semitone offset (R73): 0 to 11, else `ERR_ARG`. -/
def semitoneOperand (arg : BitVec 16) : Except ErrCode (Fin 12) :=
  if h : arg.toNat < 12 then .ok ⟨arg.toNat, h⟩ else .error .arg

/-- A waveform number (R73): 0 to 3, else `ERR_ARG`. -/
def waveOperand (arg : BitVec 16) : Except ErrCode Wave :=
  match Wave.ofNumber arg.toNat with
  | some w => .ok w
  | none => .error .arg

/-- An element index in a memory of `n` elements (R73): below `n`, else `ERR_INDEX`. -/
def indexOperand (n : Nat) (arg : BitVec 16) : Except ErrCode Nat :=
  if arg.toNat < n then .ok arg.toNat else .error .index

/-- The operand of an `FD` command over the numerics `num` (30_encoding.md R72, 60_exceptions.md R207):
finite, else `ERR_NONFINITE`. -/
def Num.operand {R : Type} (num : Num R) (v : R) : Except ErrCode R :=
  if num.isFinite v then .ok v else .error .nonfinite

/-- The operand of an `FD` command of the hardware. -/
def realOperand (v : F32) : Except ErrCode F32 := Num.f32.operand v

/-- The checks of the decode procedure from the port on (30_encoding.md R79, 60_exceptions.md R208): a
command on a port without the right fails with `ERR_PORT` before its operand is looked at, a bad operand
with the operand's code. -/
def checked {α : Type} (i : Instr) (p : Port) (operand : Except ErrCode α) : Except ErrCode α :=
  if mayIssue i p then operand else .error .port

/-- Admit a command on the port being served: a failing check is the rejection with its code, otherwise
`body` executes (30_encoding.md R79). -/
def accept {α : Type} (i : Instr) (operand : Except ErrCode α) (body : α → State → Result)
    (s : State) : Result :=
  match checked i s.port operand with
  | .ok a => body a s
  | .error code => .next (s.reject i.opcode code)

end Sys2Proof.Machine
end

