-- ==== Sys2Proof/Machine/Control.lean ====
section
/-!
DEFINITION. The commands of the control surface (44_control_surface.md): `SETBASE`, `TRUP`, `TRDN`,
`NOTE`, `WAVE`, `AMPUP`, `AMPDN`, `CLRERR`.
-/

namespace Sys2Proof.Machine

open Sys2Proof

/-- The base frequency one semitone up (44_control_surface.md R173). -/
def Num.transposeUp {R : Type} (num : Num R) (base : R) : R := num.mul base num.semi

/-- The base frequency one semitone down: a division (44_control_surface.md R174). -/
def Num.transposeDown {R : Type} (num : Num R) (base : R) : R := num.div base num.semi

/-- The amplitude one step up; there is no ceiling (44_control_surface.md R177). -/
def Num.stepUp {R : Type} (num : Num R) (amplitude step : R) : R := num.add amplitude step

/-- The amplitude one step down, floored at zero (44_control_surface.md R178). -/
def Num.stepDown {R : Type} (num : Num R) (amplitude step : R) : R :=
  let a := num.sub amplitude step
  if num.lt a (num.ofInt 0) then num.ofInt 0 else a

/-- `SETBASE v` (44_control_surface.md R172). -/
def execSetbase (v : F32) (s : State) : Result :=
  accept (.setbase v) (realOperand v)
    (fun f t => .next ({ t with baseFreq := f }.retarget.respond 0)) s

/-- `TRUP` (44_control_surface.md R173). -/
def execTrup (s : State) : Result :=
  accept .trup noOperand
    (fun _ t => .next ({ t with baseFreq := Num.f32.transposeUp t.baseFreq }.retarget.respond 0)) s

/-- `TRDN` (44_control_surface.md R174). -/
def execTrdn (s : State) : Result :=
  accept .trdn noOperand
    (fun _ t => .next ({ t with baseFreq := Num.f32.transposeDown t.baseFreq }.retarget.respond 0)) s

/-- `NOTE s` (44_control_surface.md R175). -/
def execNote (arg : BitVec 16) (s : State) : Result :=
  accept (.note arg) (semitoneOperand arg)
    (fun n t => .next ({ t with semitone := n }.retarget.respond 0)) s

/-- `WAVE w` (44_control_surface.md R176): the phase and `TRI_DIR` are kept. -/
def execWave (arg : BitVec 16) (s : State) : Result :=
  accept (.wave arg) (waveOperand arg)
    (fun w t => .next ({ t with wave := w }.respond 0)) s

/-- `AMPUP` (44_control_surface.md R177). -/
def execAmpup (s : State) : Result :=
  accept .ampup noOperand
    (fun _ t => .next ({ t with amplitude := Num.f32.stepUp t.amplitude t.ampStep }.respond 0)) s

/-- `AMPDN` (44_control_surface.md R178). -/
def execAmpdn (s : State) : Result :=
  accept .ampdn noOperand
    (fun _ t => .next ({ t with amplitude := Num.f32.stepDown t.amplitude t.ampStep }.respond 0)) s

/-- `CLRERR` (44_control_surface.md R179). -/
def execClrerr (s : State) : Result :=
  accept .clrerr noOperand (fun _ t => .next (t.clearErr.respond 0)) s

end Sys2Proof.Machine
end

