-- ==== Sys2Proof/Machine/Magnitude.lean ====
section
/-!
DEFINITION. The magnitude extractor (43_magnitude_extractor.md): `MAG`, `RDBIN`.
-/

namespace Sys2Proof.Machine

open Sys2Proof

/-- `MAG` (43_magnitude_extractor.md R161): all `N` magnitudes at once, then `MAGV <- SPECV`. -/
def execMag (s : State) : Result :=
  accept .mag noOperand
    (fun _ t => .next
      (({ t with freq := Memory.fill t.size fun k => Num.f32.cabs (t.spectrum k) }.flagsAfterMag).respond 0))
    s

/-- `RDBIN k` (43_magnitude_extractor.md R163). -/
def execRdbin (arg : BitVec 16) (s : State) : Result :=
  accept (.rdbin arg) (indexOperand s.size arg)
    (fun k t => .next (t.respond (encR (t.memRead .freq k)))) s

end Sys2Proof.Machine
end

