-- ==== Sys2Proof/Machine/Oscillator.lean ====
section
/-!
DEFINITION. The oscillator bank (40_oscillator_bank.md): the four waveforms over any numerics instance
and the `TICK` command. Each waveform computes its sample from the phase before the advance (R100).
-/

namespace Sys2Proof.Machine

open Sys2Proof

variable {R : Type}

/-- The phase increment `df` (40_oscillator_bank.md R101). -/
def Num.phaseStep (num : Num R) (targetFreq sampleRate : R) : R := num.div targetFreq sampleRate

/-- Sine (40_oscillator_bank.md R102): the sample and the next phase. -/
def Num.sineWave (num : Num R) (p df amp : R) : R × R :=
  let out := num.mul amp (num.sin (num.mul num.pi2 p))
  let p1 := num.add p df
  (out, if num.ge p1 (num.ofInt 1) then num.sub p1 (num.ofInt 1) else p1)

/-- Square (40_oscillator_bank.md R103). -/
def Num.squareWave (num : Num R) (p df amp : R) : R × R :=
  let th := num.mul p num.pi2
  let out := if num.le (num.ofInt 0) th && num.lt th num.pi then amp else num.neg amp
  let p1 := num.add p (num.mul (num.ofInt 2) df)
  (out, if num.ge p1 (num.ofInt 1) then num.sub p1 (num.ofInt 2) else p1)

/-- The direction flag after a Triangle sample (40_oscillator_bank.md R104): the two lookahead tests
are alternatives on the flag as it was. -/
def Num.triangleDir (num : Num R) (p df : R) (up : Bool) : Bool :=
  if !up && num.lt (num.sub p df) (num.ofInt (-1)) then true
  else if up && num.gt (num.add p df) (num.ofInt 1) then false
  else up

/-- Triangle (40_oscillator_bank.md R104): the sample, the next phase, the next direction flag. -/
def Num.triangleWave (num : Num R) (p df amp : R) (up : Bool) : R × R × Bool :=
  let out := num.mul amp p
  let d1 := num.triangleDir p df up
  (out, if d1 then num.add p df else num.sub p df, d1)

/-- `SAW_RESET`, the one place of the literal (40_oscillator_bank.md R105). -/
def Num.sawReset (num : Num R) : R := num.ofInt (-2)

/-- Sawtooth (40_oscillator_bank.md R105). -/
def Num.sawtoothWave (num : Num R) (p df amp : R) : R × R :=
  let out := num.mul amp p
  let p1 := num.add p (num.mul (num.ofInt 2) df)
  (out, if num.ge p1 (num.ofInt 1) then num.sawReset else p1)

/-- One advance of the oscillator (40_oscillator_bank.md R100): the sample, the next phase, the next
direction flag, by the selected waveform; only Triangle changes the flag. -/
def Num.advance (num : Num R) (w : Wave) (p df amp : R) (up : Bool) : R × R × Bool :=
  match w with
  | .sine => let r := num.sineWave p df amp; (r.1, r.2, up)
  | .square => let r := num.squareWave p df amp; (r.1, r.2, up)
  | .triangle => num.triangleWave p df amp up
  | .sawtooth => let r := num.sawtoothWave p df amp; (r.1, r.2, up)

/-- `0 < TARGET_FREQ <= SAMPLE_RATE`, that is `0 < df <= 1` (70_reset_and_hazards.md R236). -/
def Num.dfInRange (num : Num R) (targetFreq sampleRate : R) : Prop :=
  num.lt (num.ofInt 0) targetFreq = true ∧ num.le targetFreq sampleRate = true

/-- A waveform's own phase range, in which the phase stays while the waveform stays selected
(40_oscillator_bank.md R108). -/
def Num.ownRange (num : Num R) : Wave → R → Prop
  | .sine, p => num.le (num.ofInt 0) p = true ∧ num.lt p (num.ofInt 1) = true
  | .square, p => num.le (num.ofInt (-1)) p = true ∧ num.lt p (num.ofInt 1) = true
  | .triangle, p => num.le (num.ofInt (-1)) p = true ∧ num.le p (num.ofInt 1) = true
  | .sawtooth, p => num.le (num.ofInt (-2)) p = true ∧ num.lt p (num.ofInt 1) = true

/-- The advance that `TICK` makes in a state, over the numerics `num` (40_oscillator_bank.md R100). -/
def State.oscillator (num : Num F32) (s : State) : F32 × F32 × Bool :=
  num.advance s.wave s.phase (num.phaseStep s.targetFreq s.sampleRate) s.amplitude s.triDir

/-- The effect of `TICK` over the numerics `num` (40_oscillator_bank.md R100): flag, phase, push, emit,
respond. -/
def tickWith (num : Num F32) (s : State) : Result :=
  let r := s.oscillator num
  mapNext (fun t => (t.emit r.1).respond (encR r.1))
    (State.pushSample r.1 { s with triDir := r.2.2, phase := r.2.1 })

/-- `TICK` (40_oscillator_bank.md R100). -/
def execTick (s : State) : Result :=
  accept .tick noOperand (fun _ t => tickWith Num.f32 t) s

end Sys2Proof.Machine
end

