-- ==== Sys2Proof/Machine/Registers.lean ====
section
/-!
DEFINITION. Register access (45_register_access.md): the payload of every register (10_state.md R37)
and the `RDREG` command.
-/

namespace Sys2Proof.Machine

open Sys2Proof

/-- `ID` (10_state.md R33). -/
def idWord : Word32 := 0x4D500007

/-- The `CFG` word (10_state.md R34): bits 7:0 `LOG2N`, bit 8 `NUMSEL`, 0 for `NUM_F32` and 1 for
`NUM_REAL`. -/
def cfgWordOf (sel : NumSel) (log2n : Fin 16) : Word32 :=
  0#23 ++ BitVec.ofBool (sel == .real) ++ BitVec.ofNat 8 log2n.val

/-- `CFG` of the hardware (10_state.md R34). -/
def State.cfgWord (s : State) : Word32 := cfgWordOf Num.f32.sel s.log2n

/-- The payload of a register (10_state.md R37). -/
def State.payload (s : State) : Reg → Word32
  | .id => idWord
  | .cfg => s.cfgWord
  | .status => s.status
  | .err => s.err
  | .wave => s.wave.num.setWidth 32
  | .semitone => BitVec.ofNat 32 s.semitone.val
  | .baseFreq => encR s.baseFreq
  | .targetFreq => encR s.targetFreq
  | .amplitude => encR s.amplitude
  | .sampleRate => encR s.sampleRate
  | .phase => encR s.phase
  | .ampStep => encR s.ampStep
  | .wr => BitVec.ofNat 32 s.wr
  | .fill => BitVec.ofNat 32 s.fill

/-- `RDREG r` (45_register_access.md R190): no state is written. -/
def execRdreg (arg : BitVec 16) (s : State) : Result :=
  accept (.rdreg arg) (regOperand arg) (fun r t => .next (t.respond (t.payload r))) s

end Sys2Proof.Machine
end

