-- ==== Sys2Proof/Machine/Transform.lean ====
section
/-!
DEFINITION. The FFT butterfly unit (42_fft_butterfly.md): twiddle factors, the butterfly, the radix-2
recursion over any numerics instance, and the commands `FFT`, `RDRE`, `RDIM`. A sequence is written as
the function of its index; the size is given by its logarithm, so only powers of two can be written
(R145, log 13).
-/

namespace Sys2Proof.Machine

open Sys2Proof

variable {R : Type}

/-- `Twiddle(w, k)` (42_fft_butterfly.md R141). -/
def Num.twiddle (num : Num R) (w k : Nat) : R × R :=
  num.cexpm (num.div (num.mul num.pi2 (num.ofInt k)) (num.ofInt w))

/-- The butterfly (42_fft_butterfly.md R142): the upper and the lower output, the product computed
once. -/
def Num.bfly (num : Num R) (e o w : R × R) : (R × R) × (R × R) :=
  let t := num.cmul w o
  (num.cadd e t, num.csub e t)

/-- `FFTrec(2^m, x)` (42_fft_butterfly.md R143): at output `k`, with `h` half the size, the upper output
of butterfly `k` for `k < h`, the lower output of butterfly `k - h` otherwise. -/
def Num.fftRec (num : Num R) : (m : Nat) → (Nat → R × R) → Nat → R × R
  | 0, x => x
  | m + 1, x =>
    fun k =>
      let h := 2 ^ m
      let j := k % h
      let b := num.bfly (num.fftRec m (fun t => x (2 * t)) j) (num.fftRec m (fun t => x (2 * t + 1)) j)
        (num.twiddle (2 * h) j)
      if k < h then b.1 else b.2

/-- The transform of a real sequence of `2^m` samples (42_fft_butterfly.md R144). -/
def Num.fftReal (num : Num R) (m : Nat) (x : Nat → R) : Nat → R × R :=
  num.fftRec m fun t => num.ofReal (x t)

/-- The effect of `FFT` over the numerics `num` (42_fft_butterfly.md R147). -/
def fftWith (num : Num F32) (s : State) : State :=
  let x := num.fftReal s.log2n.val (s.memRead .snap)
  ({ s with
      xre := Memory.fill s.size fun k => (x k).1
      xim := Memory.fill s.size fun k => (x k).2 }.flagsAfterFft).respond 0

/-- `FFT` (42_fft_butterfly.md R147). -/
def execFft (s : State) : Result :=
  accept .fft noOperand (fun _ t => .next (fftWith Num.f32 t)) s

/-- `RDRE k` (42_fft_butterfly.md R148). -/
def execRdre (arg : BitVec 16) (s : State) : Result :=
  accept (.rdre arg) (indexOperand s.size arg)
    (fun k t => .next (t.respond (encR (t.memRead .xre k)))) s

/-- `RDIM k` (42_fft_butterfly.md R149). -/
def execRdim (arg : BitVec 16) (s : State) : Result :=
  accept (.rdim arg) (indexOperand s.size arg)
    (fun k t => .next (t.respond (encR (t.memRead .xim k)))) s

end Sys2Proof.Machine
end

