-- ==== Sys2Proof/Machine/Window.lean ====
section
/-!
DEFINITION. The sample window buffer (41_sample_window_buffer.md): `PUSH`, `SNAP`, `RDSNAP`.
-/

namespace Sys2Proof.Machine

open Sys2Proof

/-- `PUSH v` (41_sample_window_buffer.md R121): the push primitive, nothing emitted. -/
def execPush (v : F32) (s : State) : Result :=
  accept (.push v) (realOperand v) (fun x t => mapNext (State.respond 0) (t.pushSample x)) s

/-- The ring in time order, oldest first (41_sample_window_buffer.md R123). -/
def State.windowAt (s : State) (i : Nat) : F32 := s.memRead .win ((s.wr + i) % s.size)

/-- `SNAP` (41_sample_window_buffer.md R123): all `N` copies at once, then the validity flags. -/
def execSnap (s : State) : Result :=
  accept .snap noOperand
    (fun _ t => .next (({ t with snap := Memory.fill t.size t.windowAt }.flagsAfterSnap).respond 0)) s

/-- `RDSNAP i` (41_sample_window_buffer.md R125). -/
def execRdsnap (arg : BitVec 16) (s : State) : Result :=
  accept (.rdsnap arg) (indexOperand s.size arg)
    (fun i t => .next (t.respond (encR (t.memRead .snap i)))) s

end Sys2Proof.Machine
end

