-- ==== Sys2Proof/Machine/Dispatch.lean ====
section
/-!
DEFINITION. `exec`: what a command does when it is served (30_encoding.md R79 from step 2 on), one arm
per constructor of `Instr`.
-/

namespace Sys2Proof.Machine

open Sys2Proof

def exec (i : Instr) (s : State) : Host.Outcome State Fault Refusal :=
  match i with
  | .rdreg r => Sys2Proof.Machine.execRdreg r s
  | .setbase v => Sys2Proof.Machine.execSetbase v s
  | .trup => Sys2Proof.Machine.execTrup s
  | .trdn => Sys2Proof.Machine.execTrdn s
  | .note a => Sys2Proof.Machine.execNote a s
  | .wave w => Sys2Proof.Machine.execWave w s
  | .ampup => Sys2Proof.Machine.execAmpup s
  | .ampdn => Sys2Proof.Machine.execAmpdn s
  | .clrerr => Sys2Proof.Machine.execClrerr s
  | .tick => Sys2Proof.Machine.execTick s
  | .push v => Sys2Proof.Machine.execPush v s
  | .snap => Sys2Proof.Machine.execSnap s
  | .fft => Sys2Proof.Machine.execFft s
  | .mag => Sys2Proof.Machine.execMag s
  | .rdsnap k => Sys2Proof.Machine.execRdsnap k s
  | .rdre k => Sys2Proof.Machine.execRdre k s
  | .rdim k => Sys2Proof.Machine.execRdim k s
  | .rdbin k => Sys2Proof.Machine.execRdbin k s

end Sys2Proof.Machine
end

