-- ==== Sys2Proof/Machine/Ports.lean ====
section
/-!
DEFINITION. The ports and the reset input outside any command (00_scope.md R17, 20_memory.md R57,
70_reset_and_hazards.md R230, R231): presenting a request, taking it, the assertion and the release of
reset, and the choice of a port once the schedule says nothing more.
-/

namespace Sys2Proof.Machine

open Sys2Proof

/-- The outstanding request of a port (00_scope.md R17: at most one). -/
def State.request (s : State) : Port → Option Request
  | .C => s.reqC
  | .S => s.reqS
  | .A => s.reqA

/-- Set what a port holds. -/
def State.setRequest (p : Port) (r : Option Request) (s : State) : State :=
  match p with
  | .C => { s with reqC := r }
  | .S => { s with reqS := r }
  | .A => { s with reqA := r }

/-- Take a port's request into service: it is no longer outstanding, and the port is the one whose
right, error field and response the step uses (60_exceptions.md R201). -/
def State.take (p : Port) (s : State) : State := { s.setRequest p none with port := p }

/-- The ports that hold a request. -/
def State.waiting (s : State) : List Port :=
  [Port.C, Port.S, Port.A].filter fun p => (s.request p).isSome

/-- The port whose request takes its step once the schedule says nothing more: the only one that waits,
or one of those that wait by a free choice (20_memory.md R57, 00_scope.md R19, log 3). -/
def State.granted (s : State) : Option Port :=
  match s.waiting with
  | [] => none
  | [p] => some p
  | p :: q :: rest => some ((p :: q :: rest).getD (Config.arbiter s.arb % (rest.length + 2)) p)

/-- The request that the next step takes into service, with its port: none where the step serves nothing
(20_memory.md R57). -/
def State.nextServed (s : State) : Option (Port × Request) :=
  if s.rst then none
  else
    match s.schedule with
    | [] => s.granted.bind fun p => (s.request p).map fun r => (p, r)
    | .issue p _ :: _ => (s.request p).map fun r => (p, r)
    | .serve p :: _ => (s.request p).map fun r => (p, r)
    | .assertReset :: _ => none
    | .releaseReset _ :: _ => none

/-- The assertion of `rst` (70_reset_and_hazards.md R231): every outstanding request is dropped without a
response. R231 leaves open whether a command whose step came before has delivered its response; here it
always has, in the command's own step, and the assertion keeps the record (DESIGN CHOICE, log 19). What the
registers, the memories and `s_out` hold until the release is not fixed either (R230 fixes it at the release);
here they keep their values (DESIGN CHOICE, log 20). -/
def State.assertReset (s : State) : State :=
  { s with rst := true, reqC := none, reqS := none, reqA := none }

/-- The release of `rst` (70_reset_and_hazards.md R230): `CFG` is latched and the state is the reset
state; what the world does next is not the block's. Without an assertion there is nothing to release
(log 4). An instance with an illegal `CFG` is not built (00_scope.md R8, log 12). -/
def State.releaseReset (c : Cfg) (s : State) : Result :=
  if s.rst then
    if legalCfg c then .next { State.resetWith c with schedule := s.schedule, arb := s.arb }
    else .refused .illegalCfg
  else .next s

/-- The port a command word is placed on where none is named: the one that may issue it, `C` for
`RDREG` and for a word that is no command. -/
def homePort (cw : Word32) : Port :=
  match (opField cw).toNat / 16 with
  | 2 => .S
  | 3 => .A
  | _ => .C

/-- Place a request so that the next step serves it: outstanding on its port, `rst` low, the service of
that port next (log 1). -/
def State.placeRequest (r : Request) (s : State) : State :=
  { s.setRequest (homePort r.cw) (some r) with
    rst := false
    schedule := .serve (homePort r.cw) :: s.schedule }

end Sys2Proof.Machine
end

