-- ==== Sys2Proof/Machine/Service.lean ====
section
/-!
DEFINITION. What one step of the block does (00_scope.md R17, 20_memory.md R56, R57): the service of a
request, which is decoded and executed or rejected, and the handling of the next event.
-/

namespace Sys2Proof.Machine

open Sys2Proof

/-- Execute a request on the port being served (30_encoding.md R79): a word that encodes no command is
rejected with `ERR_ILLEGAL` (60_exceptions.md R203). -/
def runRequest (r : Request) (s : State) : Result :=
  match decode r.cw r.data with
  | .ok i => exec i s
  | .error _ => .next (s.reject (opField r.cw) .illegal)

/-- Serve a port: its outstanding request takes its one atomic step (20_memory.md R56). A port without
a request does nothing, and while `rst` is asserted no response is given (70_reset_and_hazards.md
R230). -/
def serve (p : Port) (s : State) : Result :=
  if s.rst then .next s
  else
    match s.request p with
    | some r => runRequest r (s.take p)
    | none => .next s

/-- The host presents a request on a port. While `rst` is asserted it is not accepted
(70_reset_and_hazards.md R230). On a port that still holds one it waits: the block first answers the
earlier request (00_scope.md R17, log 2). `s` is the state with the event taken off the schedule,
`again` the state with the event still on it. -/
def present (p : Port) (r : Request) (again s : State) : Result :=
  if s.rst then .next s
  else
    match s.request p with
    | none => .next (s.setRequest p (some r))
    | some _ => serve p again

/-- The step once the schedule says nothing more: a port that waits is served (00_scope.md R19), a free
choice being counted as drawn; with no request outstanding the state does not change (R17). -/
def drain (s : State) : Result :=
  match s.granted with
  | none => .next s
  | some p => serve p { s with arb := s.arb + 1 }

/-- One step. -/
def advance (s : State) : Result :=
  match s.schedule with
  | [] => drain s
  | e :: rest =>
    let t := { s with schedule := rest }
    match e with
    | .issue p r => present p r s t
    | .serve p => serve p t
    | .assertReset => .next t.assertReset
    | .releaseReset c => t.releaseReset c

end Sys2Proof.Machine
end

