-- ==== Sys2Proof/Machine/Step.lean ====
section
/-!
DEFINITION. One step of the machine, and the placing of a request where the next step serves it.
-/

namespace Sys2Proof.Machine

open Sys2Proof

/-- One step of the total order (20_memory.md R57). -/
def step (s : State) : Host.Outcome State Fault Refusal := advance s

/-- `s` with the instruction that spec/opcode_table.json numbers as `w` placed where the next step
serves it (log 1): the words are those `decodeTableWord` decodes. -/
def State.withFetchWord (s : State) (nbits w : Nat) : State :=
  s.placeRequest ⟨tableCw w, tableData nbits w⟩

end Sys2Proof.Machine
end

