-- ==== Sys2Proof/Machine/Reference.lean ====
section
/-!
DEFINITION. The reference instance `NUM_REAL` of the numerics record (00_scope.md R13), against which
claims about the algorithms are stated, and the reference DFT (42_fft_butterfly.md R152), a function of
the spec and no command. The block over either numerics stands in Machine/Block.lean (log 8).
-/

namespace Sys2Proof.Machine

open Sys2Proof

open Classical in
/-- `NUM_REAL` (00_scope.md R12, R13): the field of real numbers, every operation exact. -/
noncomputable def Num.real : Num ℝ where
  sel := .real
  ofInt n := n
  add a b := a + b
  sub a b := a - b
  mul a b := a * b
  div a b := a / b
  neg a := -a
  lt a b := decide (a < b)
  le a b := decide (a ≤ b)
  sin := Real.sin
  cos := Real.cos
  sqrt := Real.sqrt
  pi := Real.pi
  pi2 := 2 * Real.pi
  pow2 n := (2 : ℝ) ^ ((n.val : ℝ) / 12)
  isFinite _ := true

/-- A pair `(re, im)` as a complex number (00_scope.md R15). -/
def toComplex (x : ℝ × ℝ) : ℂ := ⟨x.1, x.2⟩

/-- The reference DFT (42_fft_butterfly.md R152): `out[k]`, the sum of `in[t] * e^(-i 2 pi k t / N)` over
`t` below `N`. -/
noncomputable def dft (n : Nat) (x : Nat → ℂ) (k : Nat) : ℂ :=
  ∑ t ∈ Finset.range n, x t * Complex.exp (-(Complex.I * (2 * Real.pi * k * t / n)))

/-- The oscillator after one sample in `NUM_REAL`: the next phase and direction flag
(40_oscillator_bank.md R100). -/
noncomputable def realAdvance (w : Wave) (df : ℝ) (s : ℝ × Bool) : ℝ × Bool :=
  (Num.real.advance w s.1 df 0 s.2).2

/-- Phase and direction flag after one sample for each waveform of a list, whatever is selected between
samples (40_oscillator_bank.md R106, R108); each sample has its own `df`. -/
noncomputable def realRun : List (Wave × ℝ) → ℝ × Bool → ℝ × Bool
  | [], s => s
  | (w, df) :: rest, s => realRun rest (realAdvance w df s)

end Sys2Proof.Machine
end

