-- ==== Sys2Proof/Machine/Block.lean ====
section
/-!
DEFINITION. The block over any numerics record (00_scope.md R7, R12): its state, its eighteen commands and
its reset as functions, with the values themselves in place of operand words and payloads. At `NUM_REAL`
it is the reference instance, which exists only as a model (R13, 10_state.md R34); at `NUM_F32` it is the
clear form of the hardware, whose state `State` is plain data. Log 8.
-/

namespace Sys2Proof.Machine

open Sys2Proof

/-- The values of a numerics parameter (00_scope.md R13, R14). -/
abbrev Carrier : NumSel → Type
  | .f32 => F32
  | .real => ℝ

/-- The numerics record of a numerics parameter (00_scope.md R12). -/
noncomputable def numerics : (n : NumSel) → Num (Carrier n)
  | .f32 => Num.f32
  | .real => Num.real

/-- The parameter record with its numerics parameter: every instance the spec allows (00_scope.md R7). -/
structure Parameters where
  /-- `NUM` -/
  num : NumSel
  /-- the other parameters -/
  cfg : CfgOf (Carrier num)

/-- The legal parameter records (00_scope.md R7, R8). -/
noncomputable def Parameters.legal (p : Parameters) : Bool := CfgOf.legal (numerics p.num) p.cfg

/-- The source's defaults as reals (00_scope.md R7). `AMP_STEP` has no default in the spec; 0.05 is the
model's (DESIGN CHOICE, log 6). -/
noncomputable def realDefaults : CfgOf ℝ where
  log2n := 7
  sampleRate := 44100
  baseFreqDefault := 440
  ampDefault := 1 / 5
  ampStep := 1 / 20

/-- The reference instance of the source's defaults (00_scope.md R7). -/
noncomputable def Parameters.reference : Parameters := ⟨.real, realDefaults⟩

/-- The hardware instance of the source's defaults (00_scope.md R7). -/
def Parameters.hardware : Parameters := ⟨.f32, Cfg.default⟩

/-- What a response carries (30_encoding.md R74): a word, or a value of `R` where the spec writes
`enc_R`, which a reference model leaves out. -/
inductive Payload (R : Type) where
  | word (w : Word32)
  | value (v : R)

/-- The payload as the word the hardware's response holds. -/
def Payload.bits : Payload F32 → Word32
  | .word w => w
  | .value v => encR v

/-- A response (30_encoding.md R74). -/
structure Answer (R : Type) where
  ok : Bool
  payload : Payload R

/-- The architectural state over the values `R` (10_state.md R20), a memory as the function of its
index. -/
structure Block (R : Type) where
  wave : Wave
  phase : R
  targetFreq : R
  amplitude : R
  sampleRate : R
  triDir : Bool
  baseFreq : R
  semitone : Fin 12
  ampStep : R
  wr : Nat
  fill : Nat
  snapv : Bool
  specv : Bool
  magv : Bool
  err : Word32
  mem : Space → Nat → R
  log2n : Fin 16
  sOut : List R

variable {R : Type}

/-- `N` (00_scope.md R7). -/
abbrev Block.size (b : Block R) : Nat := 2 ^ b.log2n.val

/-- A legal parameter record has a window size that `LOG2N` can hold (00_scope.md R7). -/
theorem CfgOf.legal_log2n {num : Num R} {c : CfgOf R} (h : CfgOf.legal num c = true) : c.log2n < 16 := by
  simp only [CfgOf.legal, Bool.and_eq_true, decide_eq_true_eq] at h
  omega

/-- The state after the release of reset with a legal parameter record (10_state.md R40): no state is built
from another record. -/
def Block.reset (num : Num R) (c : CfgOf R) (h : CfgOf.legal num c = true) : Block R where
  wave := .sine
  phase := num.ofInt 0
  targetFreq := num.mul c.baseFreqDefault (num.pow2 0)
  amplitude := c.ampDefault
  sampleRate := c.sampleRate
  triDir := true
  baseFreq := c.baseFreqDefault
  semitone := 0
  ampStep := c.ampStep
  wr := 0
  fill := 0
  snapv := false
  specv := false
  magv := false
  err := 0
  mem := fun _ _ => num.ofInt 0
  log2n := ⟨c.log2n, CfgOf.legal_log2n h⟩
  sOut := []

/-- The release of reset with a parameter record (70_reset_and_hazards.md R230): the model refuses to build
an instance whose record is outside the legal values (00_scope.md R8, 93_implementation_defined.md U1,
log 12). -/
def Block.release (num : Num R) (c : CfgOf R) : Host.Outcome (Block R) Fault Refusal :=
  if h : CfgOf.legal num c = true then .next (Block.reset num c h) else .refused .illegalCfg

/-- A memory with the elements below `N` written at once (20_memory.md R54). -/
def Block.store (sp : Space) (f : Nat → R) (b : Block R) : Block R :=
  { b with mem := fun q i => if q = sp ∧ i < b.size then f i else b.mem q i }

/-- The push primitive (41_sample_window_buffer.md R120). -/
def Block.push (v : R) (b : Block R) : Block R :=
  { b with
    mem := fun q i => if q = .win ∧ i = b.wr then v else b.mem q i
    wr := (b.wr + 1) % b.size
    fill := min (b.fill + 1) b.size }

/-- `Retarget` (44_control_surface.md R171). -/
def Block.retarget (num : Num R) (b : Block R) : Block R :=
  { b with targetFreq := num.retarget b.baseFreq b.semitone }

/-- The rejection step (60_exceptions.md R201, R202). -/
def Block.reject (op : BitVec 8) (p : Port) (code : ErrCode) (b : Block R) : Block R × Answer R :=
  ({ b with err := if errCode b.err = 0 then errWord op p code else b.err },
    ⟨false, .word (code.num.setWidth 32)⟩)

/-- The payload of a register (10_state.md R37). -/
def Block.payload (num : Num R) (b : Block R) : Reg → Payload R
  | .id => .word idWord
  | .cfg => .word (cfgWordOf num.sel b.log2n)
  | .status => .word
      (statusWord (b.fill == b.size) b.snapv b.specv b.magv b.triDir (errCode b.err != 0))
  | .err => .word b.err
  | .wave => .word (b.wave.num.setWidth 32)
  | .semitone => .word (BitVec.ofNat 32 b.semitone.val)
  | .baseFreq => .value b.baseFreq
  | .targetFreq => .value b.targetFreq
  | .amplitude => .value b.amplitude
  | .sampleRate => .value b.sampleRate
  | .phase => .value b.phase
  | .ampStep => .value b.ampStep
  | .wr => .word (BitVec.ofNat 32 b.wr)
  | .fill => .word (BitVec.ofNat 32 b.fill)

/-- The effect of `TICK` (40_oscillator_bank.md R100). -/
def Block.tick (num : Num R) (b : Block R) : Block R × Payload R :=
  let r := num.advance b.wave b.phase (num.phaseStep b.targetFreq b.sampleRate) b.amplitude b.triDir
  let u := Block.push r.1 { b with triDir := r.2.2, phase := r.2.1 }
  ({ u with sOut := u.sOut ++ [r.1] }, .value r.1)

/-- The effect of `SNAP` (41_sample_window_buffer.md R123). -/
def Block.snap (b : Block R) : Block R :=
  { b.store .snap fun i => b.mem .win ((b.wr + i) % b.size) with
    snapv := true, specv := false, magv := false }

/-- The effect of `FFT` (42_fft_butterfly.md R147). -/
def Block.fft (num : Num R) (b : Block R) : Block R :=
  let x := num.fftReal b.log2n.val (b.mem .snap)
  { (b.store .xre fun k => (x k).1).store .xim fun k => (x k).2 with specv := true, magv := false }

/-- The effect of `MAG` (43_magnitude_extractor.md R161). -/
def Block.mag (num : Num R) (b : Block R) : Block R :=
  { b.store .freq fun k => num.cabs (b.mem .xre k, b.mem .xim k) with magv := b.specv }

/-- Admit a command on a port: a failing check is the rejection with its code, otherwise `body` executes
and its payload is the response (30_encoding.md R79). -/
def Block.accept {α : Type} (i : Instr) (p : Port) (operand : Except ErrCode α)
    (body : α → Block R × Payload R) (b : Block R) : Block R × Answer R :=
  match checked i p operand with
  | .ok a => ((body a).1, ⟨true, (body a).2⟩)
  | .error code => b.reject i.opcode p code

/-- What a command does on port `p`, over the numerics `num`. `v` is the value the request carries in
place of its operand word (00_scope.md R12, 30_encoding.md R72), read by the `FD` commands alone. -/
def Block.exec (num : Num R) (i : Instr) (v : R) (p : Port) (b : Block R) : Block R × Answer R :=
  let read sp k := b.accept i p (indexOperand b.size k) fun n => (b, .value (b.mem sp n))
  let plain u := b.accept i p noOperand fun _ => (u, .word 0)
  match i with
  | .rdreg a => b.accept i p (regOperand a) fun r => (b, b.payload num r)
  | .setbase _ => b.accept i p (num.operand v) fun f => ({ b with baseFreq := f }.retarget num, .word 0)
  | .trup => plain ({ b with baseFreq := num.transposeUp b.baseFreq }.retarget num)
  | .trdn => plain ({ b with baseFreq := num.transposeDown b.baseFreq }.retarget num)
  | .note a => b.accept i p (semitoneOperand a) fun n => ({ b with semitone := n }.retarget num, .word 0)
  | .wave a => b.accept i p (waveOperand a) fun w => ({ b with wave := w }, .word 0)
  | .ampup => plain { b with amplitude := num.stepUp b.amplitude b.ampStep }
  | .ampdn => plain { b with amplitude := num.stepDown b.amplitude b.ampStep }
  | .clrerr => plain { b with err := 0 }
  | .tick => b.accept i p noOperand fun _ => b.tick num
  | .push _ => b.accept i p (num.operand v) fun x => (b.push x, .word 0)
  | .snap => plain b.snap
  | .fft => plain (b.fft num)
  | .mag => plain (b.mag num)
  | .rdsnap k => read .snap k
  | .rdre k => read .xre k
  | .rdim k => read .xim k
  | .rdbin k => read .freq k

/-- One atomic step of the block (20_memory.md R56): a request on port `p`, its command word and the
value it carries. -/
def Block.request (num : Num R) (cw : Word32) (v : R) (p : Port) (b : Block R) : Block R × Answer R :=
  match decode cw 0 with
  | .ok i => b.exec num i v p
  | .error _ => b.reject (opField cw) p .illegal

/-- Requests in the total order of 20_memory.md R57, executed from a state, with their
responses. -/
def Block.run (num : Num R) : List (Port × Word32 × R) → Block R → Block R × List (Port × Answer R)
  | [], b => (b, [])
  | (p, cw, v) :: rest, b =>
    let u := b.request num cw v p
    let w := Block.run num rest u.1
    (w.1, (p, u.2) :: w.2)

/-- The release of reset of the instance that a parameter record names, refused where the record is illegal
(00_scope.md R8). -/
noncomputable def Parameters.release (p : Parameters) : Host.Outcome (Block (Carrier p.num)) Fault Refusal :=
  Block.release (numerics p.num) p.cfg

/-- A run (00_scope.md R18) of the instance that a parameter record names: from the release of reset, requests
in their total order, with their responses. -/
noncomputable def Parameters.run (p : Parameters) (requests : List (Port × Word32 × Carrier p.num)) :
    Host.Outcome (Block (Carrier p.num) × List (Port × Answer (Carrier p.num))) Fault Refusal :=
  match p.release with
  | .next b => .next (b.run (numerics p.num) requests)
  | .fault r => .fault r
  | .refused r => .refused r

/-- The architectural state of the hardware's state (10_state.md R20). -/
def State.block (s : State) : Block F32 where
  wave := s.wave
  phase := s.phase
  targetFreq := s.targetFreq
  amplitude := s.amplitude
  sampleRate := s.sampleRate
  triDir := s.triDir
  baseFreq := s.baseFreq
  semitone := s.semitone
  ampStep := s.ampStep
  wr := s.wr
  fill := s.fill
  snapv := s.snapv
  specv := s.specv
  magv := s.magv
  err := s.err
  mem := s.memRead
  log2n := s.log2n
  sOut := s.sOut

end Sys2Proof.Machine
end

