-- ==== Sys2Proof/Machine/Pseudo.lean ====
section
/-!
DEFINITION. The pseudo commands (30_encoding.md R91, R92, 41_sample_window_buffer.md R126,
43_magnitude_extractor.md R166) as the commands they expand to, and a driver's list of commands as
events of the schedule, each issued after the previous response (30_encoding.md R90).
-/

namespace Sys2Proof.Machine

open Sys2Proof

/-- `FRAME n` (30_encoding.md R91). -/
def frame (n : Nat) : List Instr := List.replicate n .tick

/-- `CAPTURE v1, ..., vn` (41_sample_window_buffer.md R126). -/
def capture (vs : List F32) : List Instr := vs.map .push

/-- `ANALYZE` (43_magnitude_extractor.md R166). -/
def analyze : List Instr := [.snap, .fft, .mag]

/-- The request of a command (30_encoding.md R70). -/
def requestOf (i : Instr) : Request := ⟨(encode i).1, (encode i).2⟩

/-- A command issued on a port and served. -/
def command (p : Port) (i : Instr) : List Event := [.issue p (requestOf i), .serve p]

/-- A list of commands issued on one port, each after the previous response. -/
def program (p : Port) (is : List Instr) : List Event := is.flatMap (command p)

/-- Execute commands one after the other, each on the port it is listed with, as the ports' total order
has them (20_memory.md R57). -/
def execAll : List (Port × Instr) → State → Result
  | [], s => .next s
  | (p, i) :: rest, s =>
    match exec i { s with port := p } with
    | .next t => execAll rest t
    | .fault r => .fault r
    | .refused r => .refused r

end Sys2Proof.Machine
end

