-- ==== Sys2Proof/Safety.lean ====
section
/-!
DEFINITION. What claims speak of: the invariant of the block, the launch premises of
70_reset_and_hazards.md R236, the named properties of the trigonometric functions (00_scope.md R14), and
the groups of state of the single-writer table (20_memory.md R60).
-/

namespace Sys2Proof.Machine

open Sys2Proof

/-- `WR` and `FILL` are in range (10_state.md R30, R31), and before the window is warm they agree and
the elements not yet pushed hold the reset zero (41_sample_window_buffer.md R122, R124). -/
def State.ringOk (s : State) : Prop :=
  s.wr < s.size ∧ s.fill ≤ s.size ∧
    (s.fill < s.size → s.wr = s.fill ∧ ∀ i, s.fill ≤ i → s.memRead .win i = Memory.blank)

/-- Every element memory is in its canonical form and has no element at an index of `N` or above
(20_memory.md R50). -/
def State.memoryOk (s : State) : Prop :=
  ∀ sp, (s.memory sp).wf ∧ (s.memory sp).within s.size

/-- The fields of `ERR` (10_state.md R35): `CODE` 0 to 5, `PORT` 0 to 2, reserved bits zero, and all of
it zero where `CODE` is. -/
def State.errOk (s : State) : Prop :=
  errCode s.err ≤ 5 ∧ errPort s.err ≤ 2 ∧ s.err.extractLsb' 6 2 = 0 ∧ s.err.extractLsb' 16 16 = 0
    ∧ (errCode s.err = 0 → s.err = 0)

/-- `TARGET_FREQ = mul(BASE_FREQ, pow2_12(SEMITONE))` (44_control_surface.md R171). -/
def State.tuned (s : State) : Prop := s.targetFreq = Num.f32.retarget s.baseFreq s.semitone

/-- The meaning of the validity flags (10_state.md R32). -/
def State.flagsOk (s : State) : Prop :=
  (s.snapv = false → ∀ i, s.memRead .snap i = Memory.blank)
    ∧ (s.specv = true →
        ∀ k, k < s.size → s.spectrum k = Num.f32.fftReal s.log2n.val (s.memRead .snap) k)
    ∧ (s.magv = true →
        ∀ k, k < s.size →
          s.memRead .freq k = Num.f32.cabs (Num.f32.fftReal s.log2n.val (s.memRead .snap) k))

/-- The levels: the amplitude is no NaN and not negative (10_state.md R24), the sample rate and the
amplitude step are finite and positive (R25, R29, 00_scope.md R7). -/
def State.levelsOk (s : State) : Prop :=
  F32.le 0 s.amplitude = true
    ∧ (s.sampleRate.isFinite = true ∧ F32.lt 0 s.sampleRate = true)
    ∧ (s.ampStep.isFinite = true ∧ F32.lt 0 s.ampStep = true)

/-- The ports: no request is outstanding while `rst` is asserted (70_reset_and_hazards.md R231), and an
error recorded in `ERR` is known to the model's mark (60_exceptions.md R221). -/
def State.portsOk (s : State) : Prop :=
  (s.rst = true → s.reqC = none ∧ s.reqS = none ∧ s.reqA = none)
    ∧ (errCode s.err ≠ 0 → s.everRejected = true)

/-- The invariant of the block. -/
structure State.Inv (s : State) : Prop where
  ring : s.ringOk
  memory : s.memoryOk
  err : s.errOk
  tuned : s.tuned
  flags : s.flagsOk
  levels : s.levelsOk
  ports : s.portsOk

/-- The next event is no release of reset that the model refuses (00_scope.md R8). -/
def State.nextLegal (s : State) : Prop :=
  ∀ c rest, s.schedule = .releaseReset c :: rest → legalCfg c = true

/-- `u` is the state after `k` steps of the run that starts in `s` (00_scope.md R18). -/
def State.reaches (s : State) (k : Nat) (u : State) : Prop := Host.Core.run Sys2Proof.core k s = .next u

/-- The next step executes a `TICK`. -/
def State.ticksNext (s : State) : Prop :=
  ∃ r, s.nextServed = some (.S, r) ∧ decode r.cw r.data = .ok .tick

/-- `P_DF` over the `n` steps from the start `s` of a run (70_reset_and_hazards.md R236): at every `TICK`,
`0 < TARGET_FREQ <= SAMPLE_RATE`. -/
def State.premiseDf (s : State) (n : Nat) : Prop :=
  ∀ k u, k < n → s.reaches k u → u.ticksNext → Num.f32.dfInRange u.targetFreq u.sampleRate

/-- Every `R`-typed register and every element of `WIN` is finite. -/
def State.allFinite (s : State) : Prop :=
  [s.phase, s.targetFreq, s.amplitude, s.sampleRate, s.baseFreq, s.ampStep].all F32.isFinite = true
    ∧ ∀ i, (s.memRead .win i).isFinite = true

/-- `P_FIN` over the `n` steps from the start `s` of a run: every `R`-typed register and every element of
`WIN` is finite throughout. -/
def State.premiseFin (s : State) (n : Nat) : Prop := ∀ k u, k ≤ n → s.reaches k u → u.allFinite

/-- `P_WARM`: `FILL = N`. -/
def State.premiseWarm (s : State) : Prop := s.fill = s.size

/-- `P_FRESH`: `SNAPV = SPECV = MAGV = 1`. -/
def State.premiseFresh (s : State) : Prop := s.snapv = true ∧ s.specv = true ∧ s.magv = true

/-- `P_WAVE`, after `n` steps from the start `s` of a run: `WAVE` has not changed since a step `m` at which
`PHASE` was inside the selected waveform's own range (40_oscillator_bank.md R108). -/
def State.premiseWave (s : State) (n : Nat) : Prop :=
  ∃ m w, m ≤ n
    ∧ (∃ u, s.reaches m u ∧ Num.f32.ownRange w u.phase)
    ∧ ∀ k, m ≤ k → k ≤ n → ∃ u, s.reaches k u ∧ u.wave = w

/-- `P_NOERR`: no command of the run was rejected. -/
def State.premiseNoErr (s : State) : Prop := s.everRejected = false

/-- The "never" column of 70_reset_and_hazards.md R233 over what happens next, `held` saying which ports
hold a request: none is presented on a port before the previous response there, `rst` is not asserted and
`CFG` not changed. A per-call sample rate is no operand of any command. -/
def hostKeeps (held : Port → Bool) : List Event → Bool
  | [] => true
  | .issue p _ :: rest => !held p && hostKeeps (fun q => q == p || held q) rest
  | .serve p :: rest => hostKeeps (fun q => q != p && held q) rest
  | .assertReset :: _ => false
  | .releaseReset _ :: _ => false

/-- `P_HOST`: the run is not in reset and the host keeps the "never" column. -/
def State.premiseHost (s : State) : Prop :=
  s.rst = false ∧ hostKeeps (fun p => (s.request p).isSome) s.schedule = true

/-- `TRIG_RANGE` (00_scope.md R14). -/
def TrigRange (sin32 cos32 : F32 → F32) : Prop :=
  ∀ a : F32, a.isFinite = true →
    (F32.le 0xBF800000 (sin32 a) = true ∧ F32.le (sin32 a) 0x3F800000 = true)
      ∧ (F32.le 0xBF800000 (cos32 a) = true ∧ F32.le (cos32 a) 0x3F800000 = true)

/-- `TRIG_ZERO` (00_scope.md R14): `sin32(+0) = +0`, `cos32(+0) = 1`. -/
def TrigZero (sin32 cos32 : F32 → F32) : Prop := sin32 0 = 0 ∧ cos32 0 = 0x3F800000

/-- `TRIG_NAN` (00_scope.md R14): a NaN or infinite operand gives a NaN. -/
def TrigNaN (sin32 cos32 : F32 → F32) : Prop :=
  ∀ a : F32, a.isFinite = false → (sin32 a).isNaN = true ∧ (cos32 a).isNaN = true

/-- The value of a finite datum as a real number (00_scope.md R14). -/
noncomputable def F32.toReal (x : F32) : ℝ := (x.toInt : ℝ) / 2 ^ 149

/-- `TRIG_ERR(eps)` (00_scope.md R14), on the range `|a| <= 4 pi`. -/
def TrigErr (eps : ℝ) (sin32 cos32 : F32 → F32) : Prop :=
  ∀ a : F32, a.isFinite = true → |F32.toReal a| ≤ 4 * Real.pi →
    |F32.toReal (sin32 a) - Real.sin (F32.toReal a)| ≤ eps
      ∧ |F32.toReal (cos32 a) - Real.cos (F32.toReal a)| ≤ eps

/-- What only commands of port `S` write (20_memory.md R60). -/
def sameSynthesis (s t : State) : Prop :=
  t.phase = s.phase ∧ t.triDir = s.triDir ∧ t.win = s.win ∧ t.wr = s.wr ∧ t.fill = s.fill
    ∧ t.sOut = s.sOut

/-- What only commands of port `C` write, `ERR` apart (20_memory.md R60). -/
def sameControl (s t : State) : Prop :=
  t.wave = s.wave ∧ t.semitone = s.semitone ∧ t.baseFreq = s.baseFreq
    ∧ t.targetFreq = s.targetFreq ∧ t.amplitude = s.amplitude

/-- What only commands of port `A` write (20_memory.md R60). -/
def sameAnalysis (s t : State) : Prop :=
  t.snap = s.snap ∧ t.xre = s.xre ∧ t.xim = s.xim ∧ t.freq = s.freq ∧ t.snapv = s.snapv
    ∧ t.specv = s.specv ∧ t.magv = s.magv

/-- What no command writes: `SAMPLE_RATE`, `AMP_STEP` and the window size (20_memory.md R60,
45_register_access.md R191). -/
def sameParameters (s t : State) : Prop :=
  t.sampleRate = s.sampleRate ∧ t.ampStep = s.ampStep ∧ t.log2n = s.log2n

/-- What lies outside the commands: the reset input, the outstanding requests, what happens next, the
port in service (00_scope.md R17, 70_reset_and_hazards.md R230). -/
def sameInterface (s t : State) : Prop :=
  t.rst = s.rst ∧ t.reqC = s.reqC ∧ t.reqS = s.reqS ∧ t.reqA = s.reqA ∧ t.schedule = s.schedule
    ∧ t.arb = s.arb ∧ t.port = s.port

/-- `ERR` changes by a rejection only, and only where it held no error (60_exceptions.md R201, R202). -/
def errKept (i : Instr) (s t : State) : Prop :=
  t.err = s.err ∨ (errCode s.err = 0 ∧ ∃ code, t = s.reject i.opcode code)

/-- On every port but `p` the command is rejected with `ERR_PORT` (60_exceptions.md R204). -/
def onlyOnPort (p : Port) (i : Instr) : Prop :=
  ∀ s : State, s.port ≠ p → exec i s = .next (s.reject i.opcode .port)

/-- Every request with opcode `op` and `cw[23:0] != 0` is rejected with `ERR_ILLEGAL`: the encoding rule
of formats `F0` and `FD` (30_encoding.md R77). -/
def bareWordsOnly (op : BitVec 8) : Prop :=
  ∀ (cw data : Word32) (s : State), opField cw = op → cw.extractLsb' 0 24 ≠ 0 →
    runRequest ⟨cw, data⟩ s = .next (s.reject op .illegal)

/-- Every request with opcode `op` and `cw[23:16] != 0` is rejected with `ERR_ILLEGAL`: the encoding
rule of format `FA` (30_encoding.md R77). -/
def argWordsOnly (op : BitVec 8) : Prop :=
  ∀ (cw data : Word32) (s : State), opField cw = op → cw.extractLsb' 16 8 ≠ 0 →
    runRequest ⟨cw, data⟩ s = .next (s.reject op .illegal)

/-- The eighteen opcodes (30_encoding.md R76). -/
def opcodes : List Nat :=
  [0x01, 0x10, 0x11, 0x12, 0x13, 0x14, 0x15, 0x16, 0x17, 0x20, 0x21, 0x30, 0x31, 0x32, 0x33, 0x34,
    0x35, 0x36]

/-- The opcodes of format `FA` (30_encoding.md R71). -/
def argOpcodes : List Nat := [0x01, 0x13, 0x14, 0x33, 0x34, 0x35, 0x36]

/-- The encoding check written on the fields of the command word (30_encoding.md R79 step 1). -/
abbrev illegalWord (cw : Word32) : Prop :=
  (opField cw).toNat ∉ opcodes ∨ rsvField cw ≠ 0
    ∨ ((opField cw).toNat ∉ argOpcodes ∧ argField cw ≠ 0)

/-- The port check written on the opcode number: opcodes are grouped by port (30_encoding.md R76, R78). -/
abbrev rightPort (op : Nat) (p : Port) : Prop :=
  op = 0x01 ∨ (op / 16 = 1 ∧ p = .C) ∨ (op / 16 = 2 ∧ p = .S) ∨ (op / 16 = 3 ∧ p = .A)

/-- The first failing check of the decode procedure, as 30_encoding.md R79 lists the checks, for a
request on port `p` of an instance of window size `n`. -/
def firstFailing (cw data : Word32) (p : Port) (n : Nat) : Option ErrCode :=
  let op := (opField cw).toNat
  let arg := (argField cw).toNat
  if illegalWord cw then some .illegal
  else if ¬ rightPort op p then some .port
  else if (op = 0x01 ∧ 0x0D < arg) ∨ (op = 0x13 ∧ 11 < arg) ∨ (op = 0x14 ∧ 3 < arg) then some .arg
  else if (op = 0x33 ∨ op = 0x34 ∨ op = 0x35 ∨ op = 0x36) ∧ n ≤ arg then some .index
  else if (op = 0x10 ∨ op = 0x21) ∧ data.extractLsb' 23 8 = 0xFF#8 then some .nonfinite
  else none

/-- The values a command pushes into the window (41_sample_window_buffer.md R120, R122): the sample of a
`TICK`, the operand of a `PUSH` that is not rejected. -/
def pushed (p : Port) (i : Instr) (s : State) : List F32 :=
  match p, i with
  | .S, .tick => [(s.oscillator Num.f32).1]
  | .S, .push v => if v.isFinite then [v] else []
  | _, _ => []

/-- The values that a list of commands pushes, in order. -/
def pushedAll : List (Port × Instr) → State → List F32
  | [], _ => []
  | (p, i) :: rest, s =>
    match exec i { s with port := p } with
    | .next t => pushed p i s ++ pushedAll rest t
    | .fault _ => []
    | .refused _ => []

/-- What a response carries (30_encoding.md R74): the sample for `TICK`, the register for `RDREG`, the
element for the element reads, zero for every other command. -/
def carries (i : Instr) (s t : State) (v : Word32) : Prop :=
  match i with
  | .tick => t.sOut = s.sOut ++ [v]
  | .rdreg a => ∃ r, Reg.ofNumber a.toNat = some r ∧ v = s.payload r
  | .rdsnap k => v = s.memRead .snap k.toNat
  | .rdre k => v = s.memRead .xre k.toNat
  | .rdim k => v = s.memRead .xim k.toNat
  | .rdbin k => v = s.memRead .freq k.toNat
  | .setbase _ | .trup | .trdn | .note _ | .wave _ | .ampup | .ampdn | .clrerr | .push _ | .snap
  | .fft | .mag => v = 0

end Sys2Proof.Machine
end

