-- ==== Sys2Proof/Certificates/Slice0/Obligations.lean ====
section
/-!
DEFINITION. The statements for the provers. Each docstring names the rule of spec/ it formalises.
-/

open Sys2Proof Sys2Proof.Machine

/-! ### Encoding -/

/-- 30_encoding.md R70, R71, R76: decoding an encoded command gives it back, whatever its operands. -/
def Obligations.DecodeOfEncode : Prop :=
  ∀ i : Instr, decode (encode i).1 (encode i).2 = .ok i

/-- 30_encoding.md R71, R76: a request that decodes is the encoding of what it decodes to; only the
operand word of a command that ignores it is lost. -/
def Obligations.EncodeOfDecode : Prop :=
  ∀ (cw data : Word32) (i : Instr), decode cw data = .ok i →
    (encode i).1 = cw ∧ (i.format = .fd → (encode i).2 = data)

/-- 60_exceptions.md R203 (and 30_encoding.md R77): which requests are illegal, and what an illegal
request does, with the rule's worked examples. -/
def Obligations.IllegalRequestsAreRejected : Prop :=
  (∀ cw data : Word32, (∃ e, decode cw data = .error e) ↔ illegalWord cw)
  ∧ (∀ (cw data : Word32) (s : State), illegalWord cw →
      runRequest ⟨cw, data⟩ s = .next (s.reject (opField cw) .illegal))
  ∧ (∀ (op : BitVec 8) (s : State), errCode s.err = 0 →
      errOpc (s.reject op .illegal).err = op)
  ∧ illegalWord 0x00000000 ∧ illegalWord 0xFF000000 ∧ illegalWord 0x20000001 ∧ illegalWord 0x31010000
  ∧ errWord 0x00 .C .illegal = 0x00000001 ∧ errWord 0x00 .S .illegal = 0x00000011
  ∧ errWord 0x00 .A .illegal = 0x00000021
  ∧ errWord 0x20 .S .illegal = 0x00002011 ∧ errWord 0x31 .A .illegal = 0x00003121

/-- 30_encoding.md R76: one word of every command, written from the opcode map. -/
def Obligations.WordsOfTheOpcodeMapDecode : Prop :=
  decode 0x0100000D 0xDEADBEEF = .ok (.rdreg 0x000D)
  ∧ decode 0x10000000 0x43DC0000 = .ok (.setbase 0x43DC0000)
  ∧ decode 0x11000000 0xDEADBEEF = .ok .trup
  ∧ decode 0x12000000 0xDEADBEEF = .ok .trdn
  ∧ decode 0x13000007 0xDEADBEEF = .ok (.note 7)
  ∧ decode 0x14000003 0xDEADBEEF = .ok (.wave 3)
  ∧ decode 0x15000000 0xDEADBEEF = .ok .ampup
  ∧ decode 0x16000000 0xDEADBEEF = .ok .ampdn
  ∧ decode 0x17000000 0xDEADBEEF = .ok .clrerr
  ∧ decode 0x20000000 0xDEADBEEF = .ok .tick
  ∧ decode 0x21000000 0x7F7FFFFF = .ok (.push 0x7F7FFFFF)
  ∧ decode 0x30000000 0xDEADBEEF = .ok .snap
  ∧ decode 0x31000000 0xDEADBEEF = .ok .fft
  ∧ decode 0x32000000 0xDEADBEEF = .ok .mag
  ∧ decode 0x3300007F 0xDEADBEEF = .ok (.rdsnap 127)
  ∧ decode 0x34000001 0xDEADBEEF = .ok (.rdre 1)
  ∧ decode 0x3500FFFF 0xDEADBEEF = .ok (.rdim 0xFFFF)
  ∧ decode 0x36000000 0xDEADBEEF = .ok (.rdbin 0)

/-- 20_memory.md R52: byte 0 of a serialised word is bits 7:0, and the bytes give the word back. -/
def Obligations.SerialisedWordsAreLittleEndian : Prop :=
  ∀ (w : Word32) (k : Nat), k < 4 →
    (wordBytes w)[k]? = some (w.extractLsb' (8 * k) 8)
    ∧ ∀ a b c d : Byte, wordBytes w = [a, b, c, d] → bytesWord a b c d = w

/-! ### The step, rejections and the decode procedure -/

/-- 20_memory.md R56, 00_scope.md R17: a step that serves a port executes the command the port's request
decodes to, on the state in which the request is taken and the event is off the schedule; a placed table
word is executed by the very next step. That events come from a schedule in the state, and how a word is
placed, is the model's choice (log 1). -/
def Obligations.StepExecutesTheDecodedCommand : Prop :=
  (∀ (s : State) (p : Port) (rest : List Event) (r : Request) (i : Instr),
    s.schedule = .serve p :: rest → s.rst = false → s.request p = some r →
    decode r.cw r.data = .ok i →
      step s = exec i (State.take p { s with schedule := rest }))
  ∧ (∀ (s : State) (p : Port) (rest : List Event) (r : Request) (e : DecodeError),
    s.schedule = .serve p :: rest → s.rst = false → s.request p = some r →
    decode r.cw r.data = .error e →
      step s = .next ((State.take p { s with schedule := rest }).reject (opField r.cw) .illegal))
  ∧ (∀ (s : State) (nbits w : Nat) (i : Instr), decodeTableWord nbits w = some i →
      step (s.withFetchWord nbits w)
        = exec i (State.take (homePort (tableCw w)) { s with rst := false }))

/-- 60_exceptions.md R201: the rejection step. -/
def Obligations.RejectionChangesOnlyErr : Prop :=
  ∀ (op : BitVec 8) (code : ErrCode) (s : State),
    (s.reject op code).err =
      (if s.err &&& 0x0000000F = 0 then
        (op.setWidth 32 <<< 8) ||| (s.port.num.setWidth 32 <<< 4) ||| code.num.setWidth 32
       else s.err)
    ∧ (s.reject op code).responses = s.responses ++ [⟨s.port, false, code.num.setWidth 32⟩]
    ∧ sameSynthesis s (s.reject op code) ∧ sameControl s (s.reject op code)
    ∧ sameAnalysis s (s.reject op code) ∧ sameParameters s (s.reject op code)
    ∧ sameInterface s (s.reject op code)
    ∧ Port.num .C = 0 ∧ Port.num .S = 1 ∧ Port.num .A = 2
    ∧ ErrCode.num .illegal = 1 ∧ ErrCode.num .port = 2 ∧ ErrCode.num .arg = 3
    ∧ ErrCode.num .index = 4 ∧ ErrCode.num .nonfinite = 5

/-- 60_exceptions.md R202: the first error is kept until `CLRERR`, with the rule's worked example. -/
def Obligations.FirstErrorIsKept : Prop :=
  (∀ (r : Request) (s t : State), runRequest r s = .next t → errCode s.err ≠ 0 →
    t.err = s.err ∨ (decode r.cw r.data = .ok .clrerr ∧ s.port = .C ∧ t.err = 0))
  ∧ (∀ (op : BitVec 8) (code : ErrCode) (s : State), errCode s.err = 0 →
      (s.reject op code).err = errWord op s.port code)
  ∧ (∀ s : State, s.port = .C → exec .clrerr s = .next ({ s with err := 0 }.respond 0))
  ∧ (∀ s : State, s.errv = true ↔ errCode s.err ≠ 0)
  ∧ (∃ t1 t2 t3 : State,
      exec (.rdbin 200) { State.reset with port := .A } = .next t1
      ∧ t1.err = 0x00003624 ∧ t1.responses = [⟨.A, false, 4⟩]
      ∧ exec (.note 3) { t1 with port := .S } = .next t2
      ∧ t2.err = 0x00003624 ∧ t2.responses = [⟨.A, false, 4⟩, ⟨.S, false, 2⟩]
      ∧ exec .clrerr { t2 with port := .C } = .next t3 ∧ t3.err = 0)

/-- 60_exceptions.md R204 (30_encoding.md R78): a command on a port that may not issue it is rejected
with `ERR_PORT`, before its argument is looked at; `RDREG` is accepted on every port. -/
def Obligations.WrongPortIsRejected : Prop :=
  (∀ (i : Instr) (s : State), ¬ rightPort i.opcode.toNat s.port →
    exec i s = .next (s.reject i.opcode .port))
  ∧ (∀ (a : BitVec 16) (s : State), exec (.rdreg a) s ≠ .next (s.reject 0x01 .port))
  ∧ (∀ s : State, s.port = .S → exec (.note 99) s = .next (s.reject 0x13 .port))
  ∧ errWord 0x20 .C .port = 0x00002002 ∧ errWord 0x20 .A .port = 0x00002022

/-- 60_exceptions.md R205: arguments outside their range. -/
def Obligations.ArgumentOutOfRangeIsRejected : Prop :=
  (∀ (a : BitVec 16) (s : State), 0x000D < a.toNat → exec (.rdreg a) s = .next (s.reject 0x01 .arg))
  ∧ (∀ (a : BitVec 16) (s : State), s.port = .C → 11 < a.toNat →
      exec (.note a) s = .next (s.reject 0x13 .arg))
  ∧ (∀ (a : BitVec 16) (s : State), s.port = .C → 3 < a.toNat →
      exec (.wave a) s = .next (s.reject 0x14 .arg))
  ∧ errWord 0x13 .C .arg = 0x00001303 ∧ errWord 0x01 .S .arg = 0x00000113

/-- 60_exceptions.md R206: element indices at `N` or above, with the sizes the rule names. -/
def Obligations.IndexOutOfRangeIsRejected : Prop :=
  (∀ (k : BitVec 16) (s : State), s.port = .A → s.size ≤ k.toNat →
    exec (.rdsnap k) s = .next (s.reject 0x33 .index)
    ∧ exec (.rdre k) s = .next (s.reject 0x34 .index)
    ∧ exec (.rdim k) s = .next (s.reject 0x35 .index)
    ∧ exec (.rdbin k) s = .next (s.reject 0x36 .index))
  ∧ (∀ s : State, s.log2n = 15 → s.size = 32768)
  ∧ (∀ s : State, s.log2n = 0 → s.size = 1)
  ∧ errWord 0x34 .A .index = 0x00003424
  ∧ (∀ s : State, s.port = .A → s.log2n = 3 →
      exec (.rdre 7) s = .next (s.respond (s.memRead .xre 7)))

/-- 60_exceptions.md R207: an infinite or NaN operand, by the bits that say so. -/
def Obligations.NonfiniteOperandIsRejected : Prop :=
  (∀ v : F32, v.isFinite = false ↔ v.extractLsb' 23 8 = 0xFF#8)
  ∧ (∀ (v : F32) (s : State), s.port = .C → v.extractLsb' 23 8 = 0xFF#8 →
      exec (.setbase v) s = .next (s.reject 0x10 .nonfinite))
  ∧ (∀ (v : F32) (s : State), s.port = .S → v.extractLsb' 23 8 = 0xFF#8 →
      exec (.push v) s = .next (s.reject 0x21 .nonfinite))
  ∧ (∀ x : ℝ, Num.real.isFinite x = true)
  ∧ errWord 0x10 .C .nonfinite = 0x00001005 ∧ errWord 0x21 .S .nonfinite = 0x00002115
  ∧ (∀ s : State, s.port = .C → ∃ t u : State,
      exec (.setbase 0x80000000) s = .next t ∧ t.baseFreq = 0x80000000 ∧ t.err = s.err
      ∧ exec (.setbase 0xC3DC0000) s = .next u ∧ u.baseFreq = 0xC3DC0000 ∧ u.err = s.err)

/-- 30_encoding.md R79 (60_exceptions.md R208): the first failing check decides the code; where none
fails the command executes and its response has `ok = 1`. The premise on `WR` holds in every state of
the invariant (log 11). -/
def Obligations.DecodeProcedure : Prop :=
  (∀ (r : Request) (s : State) (code : ErrCode),
    firstFailing r.cw r.data s.port s.size = some code →
      runRequest r s = .next (s.reject (opField r.cw) code))
  ∧ (∀ (r : Request) (s : State), s.wr < s.size →
    firstFailing r.cw r.data s.port s.size = none →
      ∃ i t v, decode r.cw r.data = .ok i ∧ runRequest r s = exec i s ∧ exec i s = .next t
        ∧ t.responses = s.responses ++ [⟨s.port, true, v⟩])

/-! ### Register access and the control surface -/

/-- 45_register_access.md R190 with the payloads of 10_state.md R37: every register, on any port. -/
def Obligations.RdregRespondsThePayload : Prop :=
  (∀ s : State,
    exec (.rdreg 0x00) s = .next (s.respond 0x4D500007)
    ∧ exec (.rdreg 0x01) s = .next (s.respond (BitVec.ofNat 32 s.log2n.val))
    ∧ exec (.rdreg 0x02) s = .next (s.respond (BitVec.ofNat 32
        ((if s.fill = s.size then 1 else 0) + 2 * s.snapv.toNat + 4 * s.specv.toNat
          + 8 * s.magv.toNat + 16 * s.triDir.toNat + (if errCode s.err = 0 then 0 else 32))))
    ∧ exec (.rdreg 0x03) s = .next (s.respond s.err)
    ∧ exec (.rdreg 0x04) s = .next (s.respond
        (match s.wave with | .sine => 0 | .square => 1 | .triangle => 2 | .sawtooth => 3))
    ∧ exec (.rdreg 0x05) s = .next (s.respond (BitVec.ofNat 32 s.semitone.val))
    ∧ exec (.rdreg 0x06) s = .next (s.respond s.baseFreq)
    ∧ exec (.rdreg 0x07) s = .next (s.respond s.targetFreq)
    ∧ exec (.rdreg 0x08) s = .next (s.respond s.amplitude)
    ∧ exec (.rdreg 0x09) s = .next (s.respond s.sampleRate)
    ∧ exec (.rdreg 0x0A) s = .next (s.respond s.phase)
    ∧ exec (.rdreg 0x0B) s = .next (s.respond s.ampStep)
    ∧ exec (.rdreg 0x0C) s = .next (s.respond (BitVec.ofNat 32 s.wr))
    ∧ exec (.rdreg 0x0D) s = .next (s.respond (BitVec.ofNat 32 s.fill)))
  ∧ (∀ (a : BitVec 16) (s : State), 0x000D < a.toNat → exec (.rdreg a) s = .next (s.reject 0x01 .arg))
  ∧ argWordsOnly 0x01
  ∧ (∀ p : Port,
      exec (.rdreg 0x06) { State.reset with port := p } =
        .next { State.reset with port := p, responses := [⟨p, true, 0x43DC0000⟩] }
      ∧ exec (.rdreg 0x02) { State.reset with port := p } =
        .next { State.reset with port := p, responses := [⟨p, true, 0x00000010⟩] }
      ∧ exec (.rdreg 0x01) { State.reset with port := p } =
        .next { State.reset with port := p, responses := [⟨p, true, 0x00000007⟩] })

/-- 44_control_surface.md R172, with its example in both numerics. -/
def Obligations.SetbaseSetsTheBaseAndRetunes : Prop :=
  (∀ (v : F32) (s : State), s.port = .C → v.isFinite = true →
    exec (.setbase v) s =
      .next (State.respond 0 { s with
        baseFreq := v, targetFreq := F32.mul v (F32.pow2Table s.semitone) }))
  ∧ (∀ v, onlyOnPort .C (.setbase v)) ∧ bareWordsOnly 0x10
  ∧ (∀ (v : F32) (s : State), s.port = .C → v.isFinite = false →
      exec (.setbase v) s = .next (s.reject 0x10 .nonfinite))
  ∧ F32.mul 0x435C0000 (F32.pow2Table 7) = 0x43A4D054
  ∧ Num.real.retarget 220 7 = 220 * (2 : ℝ) ^ ((7 : ℝ) / 12)

/-- 44_control_surface.md R173, with its examples: one raise, twelve raises, and the silent overflow of
enough raises. -/
def Obligations.TrupRaisesTheBaseAndRetunes : Prop :=
  (∀ s : State, s.port = .C →
    exec .trup s =
      .next (State.respond 0 { s with
        baseFreq := F32.mul s.baseFreq 0x3F879C7D
        targetFreq := F32.mul (F32.mul s.baseFreq 0x3F879C7D) (F32.pow2Table s.semitone) }))
  ∧ onlyOnPort .C .trup ∧ bareWordsOnly 0x11
  ∧ F32.mul 0x43DC0000 0x3F879C7D = 0x43E914F7
  ∧ Num.f32.transposeUp^[12] 0x43DC0000 = 0x445C0007
  ∧ (∃ n, Num.f32.transposeUp^[n] 0x43DC0000 = F32.inf)
  ∧ Num.real.transposeUp 440 = 440 * (2 : ℝ) ^ ((1 : ℝ) / 12)
  ∧ ∀ x : ℝ, Num.real.transposeUp^[12] x = 2 * x

/-- 44_control_surface.md R174, with its examples: a division, which undoes `TRUP` exactly in `NUM_REAL`
and never makes a positive base negative. -/
def Obligations.TrdnLowersTheBaseAndRetunes : Prop :=
  (∀ s : State, s.port = .C →
    exec .trdn s =
      .next (State.respond 0 { s with
        baseFreq := F32.div s.baseFreq 0x3F879C7D
        targetFreq := F32.mul (F32.div s.baseFreq 0x3F879C7D) (F32.pow2Table s.semitone) }))
  ∧ onlyOnPort .C .trdn ∧ bareWordsOnly 0x12
  ∧ F32.div 0x43DC0000 0x3F879C7D = 0x43CFA700
  ∧ Num.real.transposeDown 440 = 440 / (2 : ℝ) ^ ((1 : ℝ) / 12)
  ∧ (∀ x : ℝ, Num.real.transposeDown (Num.real.transposeUp x) = x)
  ∧ ∀ x : F32, F32.lt 0 x = true → F32.le 0 (Num.f32.transposeDown x) = true

/-- 44_control_surface.md R175: the offset is absolute and the base frequency is kept. -/
def Obligations.NoteSetsTheOffsetAndRetunes : Prop :=
  (∀ (a : BitVec 16) (s : State) (h : a.toNat < 12), s.port = .C →
    exec (.note a) s =
      .next (State.respond 0 { s with
        semitone := ⟨a.toNat, h⟩
        targetFreq := F32.mul s.baseFreq (F32.pow2Table ⟨a.toNat, h⟩) }))
  ∧ (∀ a, onlyOnPort .C (.note a)) ∧ argWordsOnly 0x13
  ∧ (∀ (a : BitVec 16) (s : State), s.port = .C → 11 < a.toNat →
      exec (.note a) s = .next (s.reject 0x13 .arg))
  ∧ F32.mul 0x43DC0000 (F32.pow2Table 7) = 0x4424D054
  ∧ Num.real.retarget 440 7 = 440 * (2 : ℝ) ^ ((7 : ℝ) / 12)

/-- 44_control_surface.md R176: only `WAVE` is written; in particular the phase and `TRI_DIR` are kept. -/
def Obligations.WaveSelectsTheWaveform : Prop :=
  (∀ s : State, s.port = .C →
    exec (.wave 0) s = .next (State.respond 0 { s with wave := .sine })
    ∧ exec (.wave 1) s = .next (State.respond 0 { s with wave := .square })
    ∧ exec (.wave 2) s = .next (State.respond 0 { s with wave := .triangle })
    ∧ exec (.wave 3) s = .next (State.respond 0 { s with wave := .sawtooth }))
  ∧ (∀ a, onlyOnPort .C (.wave a)) ∧ argWordsOnly 0x14
  ∧ (∀ (a : BitVec 16) (s : State), s.port = .C → 3 < a.toNat →
      exec (.wave a) s = .next (s.reject 0x14 .arg))
  ∧ decode 0x14000003 0 = .ok (.wave 3)

/-- 44_control_surface.md R177, with its example in both numerics. -/
def Obligations.AmpupAddsTheStep : Prop :=
  (∀ s : State, s.port = .C →
    exec .ampup s = .next (State.respond 0 { s with amplitude := F32.add s.amplitude s.ampStep }))
  ∧ onlyOnPort .C .ampup ∧ bareWordsOnly 0x15
  ∧ F32.add 0x3E4CCCCD 0x3D4CCCCD = 0x3E800000
  ∧ Num.real.stepUp (2 / 10) (5 / 100) = 25 / 100

/-- 44_control_surface.md R178: the clamp at zero, which is no error, with the rule's example; and the
invariant the rule names: not below zero after reset, `AMPLITUDE` stays so under every request. -/
def Obligations.AmpdnSubtractsTheStepAndClamps : Prop :=
  (∀ s : State, s.port = .C →
    exec .ampdn s =
      .next (State.respond 0 { s with
        amplitude :=
          if F32.lt (F32.sub s.amplitude s.ampStep) 0 = true then 0
          else F32.sub s.amplitude s.ampStep }))
  ∧ onlyOnPort .C .ampdn ∧ bareWordsOnly 0x16
  ∧ (∀ x : F32, x.isFinite = true → F32.sub x x = 0)
  ∧ (∀ x : F32, x.isFinite = true → F32.lt 0 x = true → Num.f32.stepDown 0 x = 0)
  ∧ Num.f32.stepDown 0x3E4CCCCD 0x3D4CCCCD = 0x3E19999A
  ∧ Num.f32.stepDown 0x3E19999A 0x3D4CCCCD = 0x3DCCCCCE
  ∧ Num.f32.stepDown 0x3DCCCCCE 0x3D4CCCCD = 0x3D4CCCCF
  ∧ Num.f32.stepDown 0x3D4CCCCF 0x3D4CCCCD = 0x32000000
  ∧ Num.f32.stepDown 0x32000000 0x3D4CCCCD = 0x00000000
  ∧ (∀ a step : F32, F32.le 0 a = true → step.isFinite = true → F32.le 0 (Num.f32.stepDown a step) = true)
  ∧ Num.real.stepDown (2 / 10) (5 / 100) = 15 / 100
  ∧ Num.real.stepDown (15 / 100) (5 / 100) = 10 / 100
  ∧ Num.real.stepDown (10 / 100) (5 / 100) = 5 / 100
  ∧ Num.real.stepDown (5 / 100) (5 / 100) = 0
  ∧ Num.real.stepDown 0 (5 / 100) = 0
  ∧ (∀ c : Cfg, legalCfg c = true → F32.le 0 (State.resetWith c).amplitude = true)
  ∧ (∀ (r : Request) (s t : State), F32.le 0 s.amplitude = true → s.ampStep.isFinite = true →
      F32.lt 0 s.ampStep = true → runRequest r s = .next t → F32.le 0 t.amplitude = true)

/-- 44_control_surface.md R179. -/
def Obligations.ClrerrClearsErr : Prop :=
  (∀ s : State, s.port = .C → exec .clrerr s = .next (State.respond 0 { s with err := 0 }))
  ∧ onlyOnPort .C .clrerr ∧ bareWordsOnly 0x17
  ∧ (∀ s t : State, s.port = .C → exec .clrerr s = .next t → t.errv = false)

/-! ### The oscillator bank -/

/-- 40_oscillator_bank.md R100 to R105: the sample, the advance, the push, the stream and the response
of `TICK` in every waveform, with the literals as bit patterns, and the example of R100. -/
def Obligations.TickEmitsAndAdvances : Prop :=
  (∀ s : State, s.port = .S → s.wr < s.size →
    let p := s.phase
    let df := F32.div s.targetFreq s.sampleRate
    let amp := s.amplitude
    let one : F32 := 0x3F800000
    let two : F32 := 0x40000000
    let flip :=
      if s.triDir = false ∧ F32.lt (F32.sub p df) 0xBF800000 = true then true
      else if s.triDir = true ∧ F32.lt one (F32.add p df) = true then false
      else s.triDir
    let out := match s.wave with
      | .sine => F32.mul amp (Config.sin32 (F32.mul 0x40C90FDB p))
      | .square =>
        if F32.le 0 (F32.mul p 0x40C90FDB) = true ∧ F32.lt (F32.mul p 0x40C90FDB) 0x40490FDB = true
        then amp else F32.neg amp
      | .triangle => F32.mul amp p
      | .sawtooth => F32.mul amp p
    let next := match s.wave with
      | .sine => if F32.le one (F32.add p df) = true then F32.sub (F32.add p df) one else F32.add p df
      | .square =>
        if F32.le one (F32.add p (F32.mul two df)) = true then F32.sub (F32.add p (F32.mul two df)) two
        else F32.add p (F32.mul two df)
      | .triangle => if flip = true then F32.add p df else F32.sub p df
      | .sawtooth =>
        if F32.le one (F32.add p (F32.mul two df)) = true then 0xC0000000
        else F32.add p (F32.mul two df)
    exec .tick s = .next { s with
      triDir := match s.wave with | .triangle => flip | _ => s.triDir
      phase := next
      win := s.win.write s.wr out
      wr := (s.wr + 1) % s.size
      fill := min (s.fill + 1) s.size
      sOut := s.sOut ++ [out]
      responses := s.responses ++ [⟨.S, true, out⟩] })
  ∧ onlyOnPort .S .tick ∧ bareWordsOnly 0x20
  ∧ Num.real.advance .sine 0 (440 / 44100) (1 / 5) true = (0, 440 / 44100, true)

/-- 40_oscillator_bank.md R102 to R105, R109 in `NUM_REAL`: amplitude bounds, the triangle's step, the
sawtooth's climb, the period of the sine and the phase after 100 samples. The spec marks them as its own
consequences ("[derived: from this rule]"). -/
def Obligations.WaveformsInExactArithmetic : Prop :=
  (∀ p df amp : ℝ, 0 ≤ amp → |(Num.real.sineWave p df amp).1| ≤ amp)
  ∧ (∀ p df amp : ℝ, 0 ≤ amp → |(Num.real.squareWave p df amp).1| = amp)
  ∧ (∀ (p df amp : ℝ) (up : Bool), 0 ≤ amp → 0 < df → df ≤ 1 → -1 ≤ p → p ≤ 1 →
      |(Num.real.triangleWave p df amp up).1| ≤ amp
      ∧ |(Num.real.triangleWave p df amp up).2.1 - p| = df)
  ∧ (∀ p df amp : ℝ, 0 ≤ amp → 0 < df → df ≤ 1 → -2 ≤ p → p < 1 →
      -2 * amp ≤ (Num.real.sawtoothWave p df amp).1 ∧ (Num.real.sawtoothWave p df amp).1 ≤ amp
      ∧ ((Num.real.sawtoothWave p df amp).2 = p + 2 * df ∧ p + 2 * df < 1
          ∨ (Num.real.sawtoothWave p df amp).2 = -2 ∧ 1 ≤ p + 2 * df))
  ∧ (∀ (n : Nat) (p : ℝ) (up : Bool), 0 < n → 0 ≤ p → p < 1 →
      realRun (List.replicate n (.sine, 1 / (n : ℝ))) (p, up) = (p, up))
  ∧ realRun (List.replicate 100 (.sine, 440 / 44100)) (0, true) = (440 / 441, true)

/-- 40_oscillator_bank.md R108: the bound of the shared phase under every sequence of waveforms, and
each waveform's own range. The spec marks it "[derived: from rules R102, R103, R104, R105 by cases on
`WAVE`]". -/
def Obligations.SharedPhaseStaysBounded : Prop :=
  (∀ (run : List (Wave × ℝ)) (s : ℝ × Bool), (∀ e ∈ run, 0 < e.2 ∧ e.2 ≤ 1) →
    -2 ≤ s.1 → s.1 ≤ 1 → -2 ≤ (realRun run s).1 ∧ (realRun run s).1 ≤ 1)
  ∧ (∀ (w : Wave) (df : ℝ) (s : ℝ × Bool), 0 < df → df ≤ 1 → Num.real.ownRange w s.1 →
      Num.real.ownRange w (realAdvance w df s).1)

/-! ### The sample window -/

/-- 41_sample_window_buffer.md R120, R121. -/
def Obligations.PushStoresTheSample : Prop :=
  (∀ (v : F32) (s : State), s.port = .S → v.isFinite = true → s.wr < s.size →
    exec (.push v) s =
      .next (State.respond 0 { s with
        win := s.win.write s.wr v
        wr := (s.wr + 1) % s.size
        fill := min (s.fill + 1) s.size }))
  ∧ (∀ v, onlyOnPort .S (.push v)) ∧ bareWordsOnly 0x21
  ∧ (∀ (v : F32) (s : State), s.port = .S → v.isFinite = false →
      exec (.push v) s = .next (s.reject 0x21 .nonfinite))
  ∧ (∀ s : State, s.log2n = 0 → (s.wr + 1) % s.size = 0)

/-- 41_sample_window_buffer.md R123: the ring copied in time order, and the validity flags. -/
def Obligations.SnapCopiesTheRingInTimeOrder : Prop :=
  (∀ s : State, s.port = .A → ∃ t : State, exec .snap s = .next t
    ∧ (∀ i, i < s.size → t.memRead .snap i = s.memRead .win ((s.wr + i) % s.size))
    ∧ t.snapv = true ∧ t.specv = false ∧ t.magv = false
    ∧ t = State.respond 0 { s with snap := t.snap, snapv := true, specv := false, magv := false })
  ∧ onlyOnPort .A .snap ∧ bareWordsOnly 0x30

/-- 41_sample_window_buffer.md R122: after any commands since reset, with the values pushed in order,
the ring holds the most recent ones, and the elements not yet pushed are zero. The spec marks it
"[derived: from rule R120 by induction on `m`]". -/
def Obligations.RingHoldsTheMostRecentSamples : Prop :=
  ∀ (c : Cfg) (cmds : List (Port × Instr)) (t : State), legalCfg c = true →
    execAll cmds (State.resetWith c) = .next t →
    let vs := pushedAll cmds (State.resetWith c)
    t.size = 2 ^ c.log2n ∧ t.wr = vs.length % t.size ∧ t.fill = min vs.length t.size
    ∧ (∀ j, j < min vs.length t.size →
        vs[vs.length - 1 - j]? = some (t.memRead .win ((t.wr + (t.size - 1 - j)) % t.size)))
    ∧ (∀ i, t.fill ≤ i → i < t.size → t.memRead .win i = F32.ofInt 0)

/-- 41_sample_window_buffer.md R123, R124: what a snapshot holds after any commands since reset: the
most recent samples, oldest first, after as many zeros as the window still lacks. -/
def Obligations.SnapshotIsTheZeroPaddedRecentPast : Prop :=
  ∀ (c : Cfg) (cmds : List (Port × Instr)) (t u : State), legalCfg c = true →
    execAll cmds (State.resetWith c) = .next t → exec .snap { t with port := .A } = .next u →
    let vs := pushedAll cmds (State.resetWith c)
    ∀ i, i < u.size →
      (i + vs.length < u.size → u.memRead .snap i = F32.ofInt 0)
      ∧ (u.size ≤ i + vs.length → vs[i + vs.length - u.size]? = some (u.memRead .snap i))

/-- 41_sample_window_buffer.md R125, 42_fft_butterfly.md R148, R149, 43_magnitude_extractor.md R163: the
element reads. -/
def Obligations.ElementReadsRespondTheElement : Prop :=
  (∀ (k : BitVec 16) (s : State), s.port = .A → k.toNat < s.size →
    exec (.rdsnap k) s = .next (s.respond (s.memRead .snap k.toNat))
    ∧ exec (.rdre k) s = .next (s.respond (s.memRead .xre k.toNat))
    ∧ exec (.rdim k) s = .next (s.respond (s.memRead .xim k.toNat))
    ∧ exec (.rdbin k) s = .next (s.respond (s.memRead .freq k.toNat)))
  ∧ (∀ (k : BitVec 16) (s : State), s.port = .A → s.size ≤ k.toNat →
    exec (.rdsnap k) s = .next (s.reject 0x33 .index)
    ∧ exec (.rdre k) s = .next (s.reject 0x34 .index)
    ∧ exec (.rdim k) s = .next (s.reject 0x35 .index)
    ∧ exec (.rdbin k) s = .next (s.reject 0x36 .index))
  ∧ (∀ k, onlyOnPort .A (.rdsnap k) ∧ onlyOnPort .A (.rdre k) ∧ onlyOnPort .A (.rdim k)
      ∧ onlyOnPort .A (.rdbin k))
  ∧ argWordsOnly 0x33 ∧ argWordsOnly 0x34 ∧ argWordsOnly 0x35 ∧ argWordsOnly 0x36

/-! ### Transform and magnitude -/

/-- 42_fft_butterfly.md R147 with R142 to R144: the spectrum is the recursion's value on the snapshot
lifted to complex values, and the recursion is the butterfly of the half-size transforms. -/
def Obligations.FftTransformsTheSnapshot : Prop :=
  (∀ s : State, s.port = .A → ∃ t : State, exec .fft s = .next t
    ∧ (∀ k, k < s.size →
        t.spectrum k = Num.f32.fftRec s.log2n.val (fun i => (s.memRead .snap i, F32.ofInt 0)) k)
    ∧ t = State.respond 0 { s with xre := t.xre, xim := t.xim, specv := true, magv := false })
  ∧ onlyOnPort .A .fft ∧ bareWordsOnly 0x31
  ∧ (∀ (x : Nat → F32 × F32) (k : Nat), Num.f32.fftRec 0 x k = x k)
  ∧ (∀ (m : Nat) (x : Nat → F32 × F32) (k : Nat), k < 2 ^ m →
      let e := Num.f32.fftRec m (fun j => x (2 * j)) k
      let o := Num.f32.fftRec m (fun j => x (2 * j + 1)) k
      let a := F32.div (F32.mul 0x40C90FDB (F32.ofInt k)) (F32.ofInt (2 ^ (m + 1)))
      let c := Config.cos32 a
      let s := F32.neg (Config.sin32 a)
      let tr := F32.sub (F32.mul c o.1) (F32.mul s o.2)
      let ti := F32.add (F32.mul c o.2) (F32.mul s o.1)
      Num.f32.fftRec (m + 1) x k = (F32.add e.1 tr, F32.add e.2 ti)
      ∧ Num.f32.fftRec (m + 1) x (k + 2 ^ m) = (F32.sub e.1 tr, F32.sub e.2 ti))

/-- 43_magnitude_extractor.md R161, with its `NUM_F32` corner cases. -/
def Obligations.MagComputesTheModuli : Prop :=
  (∀ s : State, s.port = .A → ∃ t : State, exec .mag s = .next t
    ∧ (∀ k, k < s.size →
        t.memRead .freq k =
          F32.sqrt (F32.add (F32.mul (s.memRead .xre k) (s.memRead .xre k))
            (F32.mul (s.memRead .xim k) (s.memRead .xim k))))
    ∧ t = State.respond 0 { s with freq := t.freq, magv := s.specv })
  ∧ onlyOnPort .A .mag ∧ bareWordsOnly 0x32
  ∧ Num.f32.cabs (0, 0) = 0 ∧ Num.f32.cabs (0x80000000, 0x80000000) = 0
  ∧ Num.f32.cabs (0x5F800000, 0) = 0x7F800000 ∧ Num.f32.cabs (0x0DA24260, 0) = 0
  ∧ (∀ a b : F32, a.isNaN = true ∨ b.isNaN = true → (Num.f32.cabs (a, b)).isNaN = true)
  ∧ (∀ x : ℝ × ℝ, 0 ≤ Num.real.cabs x)

/-- 42_fft_butterfly.md R153: the transform equals the reference DFT of R152, exactly, for every power
of two and every complex input. The spec takes it "from general knowledge, not in source: the
Danielson-Lanczos splitting". -/
def Obligations.FftEqualsTheReferenceDft : Prop :=
  ∀ (m : Nat) (x : Nat → ℝ × ℝ) (k : Nat), k < 2 ^ m →
    toComplex (Num.real.fftRec m x k) = dft (2 ^ m) (fun t => toComplex (x t)) k

/-- 42_fft_butterfly.md R151: the transform is linear. The spec marks it "[derived: from rules R142,
R143 by induction on `w`]". -/
def Obligations.FftIsLinear : Prop :=
  ∀ (m : Nat) (a b : ℂ) (x y z : Nat → ℝ × ℝ) (k : Nat),
    (∀ t, toComplex (z t) = a * toComplex (x t) + b * toComplex (y t)) →
    toComplex (Num.real.fftRec m z k)
      = a * toComplex (Num.real.fftRec m x k) + b * toComplex (Num.real.fftRec m y k)

/-- 43_magnitude_extractor.md R162 and the conjugate symmetry of 42_fft_butterfly.md R150 it rests on:
bins `k` and `N - k` of a real window. The spec marks it "[derived: from `42_fft_butterfly.md` rule R150
and rule R160]". -/
def Obligations.SpectrumOfARealWindowIsMirrored : Prop :=
  ∀ (m : Nat) (x : Nat → ℝ) (k : Nat), 1 ≤ k → k < 2 ^ m →
    Num.real.fftReal m x (2 ^ m - k) = ((Num.real.fftReal m x k).1, -(Num.real.fftReal m x k).2)
    ∧ Num.real.cabs (Num.real.fftReal m x (2 ^ m - k)) = Num.real.cabs (Num.real.fftReal m x k)

/-- 42_fft_butterfly.md R154: the spectrum of a bin-aligned sine, and that the samples of the Sine
waveform with `df = k/N` from phase 0 are such a sine. The spec takes it "from general knowledge, not in
source: orthogonality of the complex exponentials over `N` points". -/
def Obligations.PureToneHasTwoBins : Prop :=
  ∀ (m k : Nat) (amp : ℝ), 0 < k → 2 * k < 2 ^ m →
    (∀ j, j < 2 ^ m →
      Num.real.fftReal m (fun t => amp * Real.sin (2 * Real.pi * k * t / 2 ^ m)) j =
        if j = k then (0, -(amp * 2 ^ m / 2))
        else if j = 2 ^ m - k then (0, amp * 2 ^ m / 2) else (0, 0))
    ∧ (∀ (t : Nat) (up : Bool),
        (Num.real.sineWave (realRun (List.replicate t (.sine, (k : ℝ) / 2 ^ m)) (0, up)).1
          ((k : ℝ) / 2 ^ m) amp).1 = amp * Real.sin (2 * Real.pi * k * t / 2 ^ m))

/-- 43_magnitude_extractor.md R166 (41_sample_window_buffer.md R128): after `SNAP`, `FFT` and `MAG` with
any commands of the other ports between them, the Frequency Array is the moduli of the transform of the
window as it stood at the `SNAP`, and the three validity flags certify it. The spec marks it "[derived:
from `41_sample_window_buffer.md` rule R123, `42_fft_butterfly.md` rule R147 and rule R161]". -/
def Obligations.AnalysisPassIsOfOneInstant : Prop :=
  ∀ (s t1 t2 t3 t4 t5 : State) (between1 between2 : List (Port × Instr)),
    (∀ c ∈ between1, c.1 ≠ .A) → (∀ c ∈ between2, c.1 ≠ .A) →
    exec .snap { s with port := .A } = .next t1 → execAll between1 t1 = .next t2 →
    exec .fft { t2 with port := .A } = .next t3 → execAll between2 t3 = .next t4 →
    exec .mag { t4 with port := .A } = .next t5 →
      t5.snapv = true ∧ t5.specv = true ∧ t5.magv = true
      ∧ ∀ k, k < s.size →
          t5.memRead .freq k = Num.f32.cabs (Num.f32.fftReal s.log2n.val (t5.memRead .snap) k)
          ∧ t5.memRead .snap k = s.memRead .win ((s.wr + k) % s.size)

/-- 44_control_surface.md R180: one semitone up from 440, and the octave, in `NUM_REAL`; the same in
`NUM_F32` by R173. The spec marks it "[derived: from rule R173]". -/
def Obligations.TwelveSemitonesAreAnOctave : Prop :=
  |Num.real.transposeUp 440 - 466.16| < 0.01
  ∧ Num.real.transposeUp^[12] 440 = 880
  ∧ Num.real.semi ^ 12 = 2
  ∧ Num.f32.transposeUp 0x43DC0000 = 0x43E914F7
  ∧ Num.f32.transposeUp^[12] 0x43DC0000 = 0x445C0007

/-! ### Frames -/

/-- 44_control_surface.md R170 and R172 to R179: what the control commands leave unchanged. -/
def Obligations.ControlCommandsFrame : Prop :=
  ∀ (s t : State) (i : Instr), exec i s = .next t →
    ((∃ v, i = .setbase v) ∨ i = .trup ∨ i = .trdn →
      sameSynthesis s t ∧ sameAnalysis s t ∧ sameParameters s t ∧ sameInterface s t ∧ errKept i s t
      ∧ (∀ sp k, t.memRead sp k = s.memRead sp k)
      ∧ t.wave = s.wave ∧ t.semitone = s.semitone ∧ t.amplitude = s.amplitude)
    ∧ ((∃ a, i = .note a) →
      sameSynthesis s t ∧ sameAnalysis s t ∧ sameParameters s t ∧ sameInterface s t ∧ errKept i s t
      ∧ (∀ sp k, t.memRead sp k = s.memRead sp k)
      ∧ t.wave = s.wave ∧ t.baseFreq = s.baseFreq ∧ t.amplitude = s.amplitude)
    ∧ ((∃ a, i = .wave a) →
      sameSynthesis s t ∧ sameAnalysis s t ∧ sameParameters s t ∧ sameInterface s t ∧ errKept i s t
      ∧ (∀ sp k, t.memRead sp k = s.memRead sp k)
      ∧ t.semitone = s.semitone ∧ t.baseFreq = s.baseFreq ∧ t.targetFreq = s.targetFreq
      ∧ t.amplitude = s.amplitude)
    ∧ (i = .ampup ∨ i = .ampdn →
      sameSynthesis s t ∧ sameAnalysis s t ∧ sameParameters s t ∧ sameInterface s t ∧ errKept i s t
      ∧ (∀ sp k, t.memRead sp k = s.memRead sp k)
      ∧ t.wave = s.wave ∧ t.semitone = s.semitone ∧ t.baseFreq = s.baseFreq
      ∧ t.targetFreq = s.targetFreq)
    ∧ (i = .clrerr →
      sameSynthesis s t ∧ sameAnalysis s t ∧ sameParameters s t ∧ sameInterface s t
      ∧ sameControl s t ∧ ∀ sp k, t.memRead sp k = s.memRead sp k)

/-- 40_oscillator_bank.md R100, 41_sample_window_buffer.md R121: what `TICK` and `PUSH` leave unchanged:
of the memories, every element but the one at `WR` of `WIN`. -/
def Obligations.SynthesisCommandsFrame : Prop :=
  ∀ (s t : State) (i : Instr), (i = .tick ∨ ∃ v, i = .push v) → exec i s = .next t →
    sameControl s t ∧ sameAnalysis s t ∧ sameParameters s t ∧ sameInterface s t ∧ errKept i s t
    ∧ (∀ k, k ≠ s.wr → t.memRead .win k = s.memRead .win k)
    ∧ (∀ sp k, sp ≠ .win → t.memRead sp k = s.memRead sp k)
    ∧ ((∃ v, i = .push v) → t.phase = s.phase ∧ t.triDir = s.triDir ∧ t.sOut = s.sOut)
    ∧ (s.wave ≠ .triangle → t.triDir = s.triDir)

/-- 41_sample_window_buffer.md R123, 42_fft_butterfly.md R147, 43_magnitude_extractor.md R161: what
`SNAP`, `FFT` and `MAG` leave unchanged. Each writes all `N` elements of its memories and no other
element. -/
def Obligations.AnalysisCommandsFrame : Prop :=
  ∀ (s t : State) (i : Instr), exec i s = .next t →
    (i = .snap →
      sameSynthesis s t ∧ sameControl s t ∧ sameParameters s t ∧ sameInterface s t ∧ errKept i s t
      ∧ (∀ sp k, sp ≠ .snap → t.memRead sp k = s.memRead sp k)
      ∧ (s.memoryOk → ∀ k, s.size ≤ k → t.memRead .snap k = s.memRead .snap k))
    ∧ (i = .fft →
      sameSynthesis s t ∧ sameControl s t ∧ sameParameters s t ∧ sameInterface s t ∧ errKept i s t
      ∧ t.snapv = s.snapv
      ∧ (∀ sp k, sp ≠ .xre → sp ≠ .xim → t.memRead sp k = s.memRead sp k)
      ∧ (s.memoryOk → ∀ k, s.size ≤ k → t.spectrum k = s.spectrum k))
    ∧ (i = .mag →
      sameSynthesis s t ∧ sameControl s t ∧ sameParameters s t ∧ sameInterface s t ∧ errKept i s t
      ∧ t.snapv = s.snapv ∧ t.specv = s.specv
      ∧ (∀ sp k, sp ≠ .freq → t.memRead sp k = s.memRead sp k)
      ∧ (s.memoryOk → ∀ k, s.size ≤ k → t.memRead .freq k = s.memRead .freq k))

/-- 20_memory.md R55: the reads change nothing but the record of responses, and `SNAP`, `FFT`, `MAG`
repeated leave what they left; `TICK` and `PUSH` advance `WR` modulo `N`, which is a change wherever
`N > 1`. The spec marks it "[derived: from rules R54, R56 and the command rules]". That `FFT` or `MAG`
repeated gives the same NaN bits is the model's choice (log 7): 93_implementation_defined.md U6 leaves the
bits of a produced NaN at any value. -/
def Obligations.ReadsHaveNoSideEffect : Prop :=
  (∀ (s t : State) (i : Instr),
    ((∃ a, i = .rdreg a) ∨ (∃ a, i = .rdsnap a) ∨ (∃ a, i = .rdre a) ∨ (∃ a, i = .rdim a)
      ∨ ∃ a, i = .rdbin a) →
    exec i s = .next t →
      t = { s with responses := t.responses } ∨ ∃ code, t = s.reject i.opcode code)
  ∧ (∀ (s t u : State) (i : Instr), i = .snap ∨ i = .fft ∨ i = .mag →
      exec i s = .next t → exec i t = .next u → u = { t with responses := u.responses })
  ∧ (∀ (s t : State) (i : Instr), (i = .tick ∨ ∃ v, i = .push v ∧ v.isFinite = true) →
      s.port = .S → exec i s = .next t →
        t.wr = (s.wr + 1) % s.size ∧ (1 < s.size → t.wr ≠ s.wr))

/-! ### The whole machine -/

/-- 20_memory.md R60: the single-writer table, for every request. -/
def Obligations.EachPortWritesOnlyItsState : Prop :=
  ∀ (r : Request) (s t : State), runRequest r s = .next t →
    (s.port ≠ .S → sameSynthesis s t) ∧ (s.port ≠ .C → sameControl s t)
    ∧ (s.port ≠ .A → sameAnalysis s t) ∧ sameParameters s t ∧ sameInterface s t
    ∧ (t.err = s.err ∨ (∃ code, t = s.reject (opField r.cw) code) ∨ (s.port = .C ∧ t.err = 0))

/-- 20_memory.md R58: no commands of ports `S` and `C` change what port `A` analyses. The spec marks it
"[derived: from rules R56 and R60]". -/
def Obligations.SnapshotIsIsolated : Prop :=
  ∀ (cmds : List (Port × Instr)) (s t : State), (∀ c ∈ cmds, c.1 ≠ .A) →
    execAll cmds s = .next t →
    sameAnalysis s t ∧ ∀ sp k, sp ≠ .win → t.memRead sp k = s.memRead sp k

/-- 30_encoding.md R74: every request that is served is answered by exactly one response, on its port,
with the payload the rule gives; and the model's mark beside `ERR` (60_exceptions.md R221) records every
`ok = 0`. -/
def Obligations.EveryRequestIsAnsweredOnce : Prop :=
  ∀ (r : Request) (s t : State), runRequest r s = .next t →
    ∃ ok v, t.responses = s.responses ++ [⟨s.port, ok, v⟩]
      ∧ t.everRejected = (s.everRejected || !ok)
      ∧ (ok = true → ∃ i, decode r.cw r.data = .ok i ∧ carries i s t v)
      ∧ (ok = false → ∃ code, v = code.num.setWidth 32 ∧ t = s.reject (opField r.cw) code)

/-- The invariant of the block (10_state.md R24, R30 to R32, R35, 20_memory.md R50,
44_control_surface.md R171) is kept by every step: commands, rejections, requests, resets. That the state
between an assertion of `rst` and the release meets it is the model's choice (log 20). -/
def Obligations.EveryStepKeepsTheInvariant : Prop :=
  ∀ s t : State, s.Inv → step s = .next t → t.Inv

/-- The invariant holds right after reset, for every legal instance. `AMP_STEP` of the default one is
the model's choice (log 6). -/
def Obligations.TheInvariantHoldsAfterReset : Prop :=
  State.reset.Inv ∧ ∀ c : Cfg, legalCfg c = true → (State.resetWith c).Inv

/-- 60_exceptions.md R211: there is no state from which commands stop being accepted: every step from a
state of the invariant answers a next state, unless it is asked to build an instance the spec refuses. -/
def Obligations.TheBlockNeverStops : Prop :=
  ∀ s : State, s.Inv → s.nextLegal → ∃ t, step s = .next t ∧ t.Inv

/-- 10_state.md R40: the state after reset, for every legal instance, and the bit patterns of the
default one. What `AMP_STEP` resets to in the default instance is the model's choice (log 6) and is not
stated. -/
def Obligations.ResetLeavesTheResetState : Prop :=
  (∀ c : Cfg, legalCfg c = true →
    let s := State.resetWith c
    s.wave = .sine ∧ s.phase = 0 ∧ s.triDir = true ∧ s.baseFreq = c.baseFreqDefault ∧ s.semitone = 0
    ∧ s.targetFreq = s.baseFreq ∧ s.amplitude = c.ampDefault ∧ s.sampleRate = c.sampleRate
    ∧ s.ampStep = c.ampStep ∧ s.wr = 0 ∧ s.fill = 0 ∧ s.snapv = false ∧ s.specv = false
    ∧ s.magv = false ∧ s.err = 0 ∧ (∀ sp i, s.memRead sp i = 0) ∧ s.sOut = []
    ∧ s.log2n.val = c.log2n ∧ s.payload .id = 0x4D500007
    ∧ s.payload .cfg = BitVec.ofNat 32 c.log2n)
  ∧ State.reset.baseFreq = 0x43DC0000 ∧ State.reset.targetFreq = 0x43DC0000
  ∧ State.reset.amplitude = 0x3E4CCCCD ∧ State.reset.sampleRate = 0x472C4400
  ∧ State.reset.phase = 0x00000000 ∧ State.reset.size = 128

/-- 70_reset_and_hazards.md R230, R231: the assertion of `rst` drops every outstanding request without a
response; while it is asserted no request is accepted and no response given; its release latches `CFG`
and leaves the reset state. What follows on the schedule is the world's. That a request presented while
`rst` is asserted is discarded is the model's choice (log 4), and so is that the responses given before the
assertion stay in the record until the release (log 19) and that the state keeps its values until then (log
20); the release empties that record, clears the mark of 60_exceptions.md R221 and sets the model's `port`
to `C` (log 5). The refusal is R8's (log 12). -/
def Obligations.ResetDropsRequestsAndLatchesCfg : Prop :=
  (∀ (s : State) (rest : List Event), s.schedule = .assertReset :: rest →
    ∃ t, step s = .next t ∧ t.rst = true ∧ (∀ p, t.request p = none) ∧ t.responses = s.responses)
  ∧ (∀ (s : State) (rest : List Event) (p : Port) (r : Request), s.rst = true →
      s.schedule = .issue p r :: rest → step s = .next { s with schedule := rest })
  ∧ (∀ (s : State) (rest : List Event) (p : Port), s.rst = true →
      s.schedule = .serve p :: rest → step s = .next { s with schedule := rest })
  ∧ (∀ (s : State) (rest : List Event) (c : Cfg), s.rst = true → legalCfg c = true →
      s.schedule = .releaseReset c :: rest →
      step s = .next { State.resetWith c with schedule := rest, arb := s.arb })
  ∧ (∀ (s : State) (rest : List Event) (c : Cfg), s.rst = true → legalCfg c = false →
      s.schedule = .releaseReset c :: rest → step s = .refused .illegalCfg)

/-- 00_scope.md R17: a request is accepted only where the port holds none, and presenting it changes
nothing else; on a busy port the earlier request is answered first and the later one waits (log 2). A host
that keeps `P_HOST` (70_reset_and_hazards.md R236, R233) goes on keeping it and never has one wait. -/
def Obligations.OneRequestOutstandingPerPort : Prop :=
  (∀ (s : State) (rest : List Event) (p : Port) (r : Request), s.rst = false →
    s.schedule = .issue p r :: rest → s.request p = none →
      step s = .next (State.setRequest p (some r) { s with schedule := rest })
      ∧ ∀ q, (State.setRequest p (some r) { s with schedule := rest }).request q
          = if q = p then some r else s.request q)
  ∧ (∀ (s : State) (rest : List Event) (p : Port) (r r' : Request), s.rst = false →
      s.schedule = .issue p r :: rest → s.request p = some r' →
      step s = runRequest r' (s.take p))
  ∧ (∀ s t : State, s.premiseHost → step s = .next t → t.premiseHost)
  ∧ (∀ (s : State) (rest : List Event) (p : Port) (r : Request), s.premiseHost →
      s.schedule = .issue p r :: rest → s.request p = none)

/-- 00_scope.md R19 (log 3): once the schedule says nothing more, every outstanding request is answered,
one a step, in whatever order the free arbitration takes. -/
def Obligations.OutstandingRequestsAreAnswered : Prop :=
  ∀ s : State, s.Inv → s.rst = false → s.schedule = [] →
    ∃ t, Host.Core.run Sys2Proof.core s.waiting.length s = .next t ∧ t.waiting = []
      ∧ t.responses.length = s.responses.length + s.waiting.length
      ∧ step t = .next t

/-- 70_reset_and_hazards.md R241, 10_state.md R31: once warm, the window stays warm until reset. That it
stays so between an assertion of `rst` and the release is the model's choice (log 20). -/
def Obligations.WarmStaysWarm : Prop :=
  ∀ s t : State, s.fill = s.size → step s = .next t →
    (∀ c rest, s.schedule ≠ .releaseReset c :: rest) →
      t.fill = t.size ∧ t.size = s.size ∧ t.warm = true

/-- 45_register_access.md R191, 10_state.md R25, R29: nothing but reset changes the sample rate, the
amplitude step and the window size. That the assertion of `rst` leaves them for the release to change is the
model's choice (log 20). -/
def Obligations.ParametersChangeOnlyAtReset : Prop :=
  ∀ s t : State, step s = .next t → (∀ c rest, s.schedule ≠ .releaseReset c :: rest) →
    sameParameters s t

/-- 30_encoding.md R91, 10_state.md R36: `FRAME n` emits exactly `n` samples, which are its responses. -/
def Obligations.FrameEmitsExactlyItsSamples : Prop :=
  ∀ (n : Nat) (s : State), s.wr < s.size →
    ∃ (t : State) (outs : List F32), execAll ((frame n).map fun i => (.S, i)) s = .next t
      ∧ outs.length = n ∧ t.sOut = s.sOut ++ outs
      ∧ t.responses = s.responses ++ outs.map fun v => ⟨.S, true, v⟩

/-! ### Binary32 arithmetic -/

/-- 00_scope.md R14: a finite sum or product is a nearest datum to the exact result. The spec takes IEEE
754 "from general knowledge, not in source" (log 16). -/
def Obligations.SumsAndProductsRoundToNearest : Prop :=
  (∀ x y z : F32, x.isFinite = true → y.isFinite = true → z.isFinite = true →
    (F32.add x y).isFinite = true →
      |(F32.add x y).toInt - (x.toInt + y.toInt)| ≤ |z.toInt - (x.toInt + y.toInt)|)
  ∧ (∀ x y z : F32, x.isFinite = true → y.isFinite = true → z.isFinite = true →
    (F32.mul x y).isFinite = true →
      |(F32.mul x y).toInt * 2 ^ 149 - x.toInt * y.toInt| ≤ |z.toInt * 2 ^ 149 - x.toInt * y.toInt|)

/-- 10_state.md R23: multiplication by `pow2_12(0)` is exact. -/
def Obligations.MultiplicationByOneIsExact : Prop :=
  F32.pow2Table 0 = 0x3F800000 ∧ ∀ x : F32, x.isFinite = true → F32.mul x 0x3F800000 = x

/-- 00_scope.md R14: every entry of the `pow2_12` table lies within half a unit in the last place of
`2^(n/12)`, on the integers: `(v - ulp/2)^12 <= 2^n <= (v + ulp/2)^12`. -/
def Obligations.SemitoneTableIsNearest : Prop :=
  ∀ n : Fin 12,
    (2 * (F32.pow2Table n).mag - 2 ^ 126) ^ 12 ≤ 2 ^ n.val * (2 ^ 150) ^ 12
    ∧ 2 ^ n.val * (2 ^ 150) ^ 12 ≤ (2 * (F32.pow2Table n).mag + 2 ^ 126) ^ 12

/-- 44_control_surface.md R170: from finite registers no control command produces a NaN. -/
def Obligations.ControlCommandsProduceNoNaN : Prop :=
  ∀ (r : Request) (s t : State), s.port = .C → s.baseFreq.isFinite = true →
    s.targetFreq.isFinite = true → s.amplitude.isFinite = true → s.ampStep.isFinite = true →
    runRequest r s = .next t →
      t.baseFreq.isNaN = false ∧ t.targetFreq.isNaN = false ∧ t.amplitude.isNaN = false

/-! ### The numerics parameter -/

/-- 00_scope.md R7, R8, R12, 30_encoding.md R79: the hardware does, request by request, what the block over
any numerics does at `NUM_F32`, and so does its release of reset; in either numerics a release with an illegal
parameter record is refused (log 12) and one with a legal record latches it; at `NUM_REAL` the same block with real values in place of
words is the reference instance (log 8), whose `CFG` reads `NUMSEL = 1` (10_state.md R34). The premises on
the state are parts of the invariant. -/
def Obligations.HardwareIsTheBlockAtF32 : Prop :=
  (∀ (r : Request) (s : State), s.wr < s.size → s.memoryOk →
    let u := s.block.request Num.f32 r.cw (decR r.data) s.port
    ∃ t, runRequest r s = .next t ∧ t.block = u.1
      ∧ t.responses = s.responses ++ [⟨s.port, u.2.ok, u.2.payload.bits⟩])
  ∧ (∀ c : Cfg, legalCfg c = true →
      Block.release Num.f32 c = .next (State.resetWith c).block)
  ∧ (∀ p : Parameters, (p.legal = false → p.release = .refused .illegalCfg)
      ∧ (p.legal = true → ∃ b, p.release = .next b ∧ b.size = 2 ^ p.cfg.log2n
          ∧ b.baseFreq = p.cfg.baseFreqDefault ∧ b.amplitude = p.cfg.ampDefault
          ∧ b.sampleRate = p.cfg.sampleRate ∧ b.ampStep = p.cfg.ampStep))
  ∧ (∀ (b : Block ℝ) (p : Port) (v : ℝ), b.request Num.real 0x01000001 v p =
      (b, ⟨true, .word (0x00000100 ||| BitVec.ofNat 32 b.log2n.val)⟩))
end

