-- ==== Sys2Proof/Laws/Memory.lean ====
section
/-!
SUPPORT. The laws of the element memories: a read after a write or a fill, and that every memory
operation keeps the canonical form and the index bound.
-/

namespace Sys2Proof.Machine

open Sys2Proof

@[simp] theorem Memory.read_nil (i : Nat) : Memory.read [] i = Memory.blank := rfl

/-- A read below every listed index finds nothing listed. -/
theorem Memory.read_of_lt {m : Memory} {i : Nat} (h : ∀ c ∈ m, i < c.1) :
    Memory.read m i = Memory.blank := by
  induction m with
  | nil => rfl
  | cons c m ih =>
    have hc : i < c.1 := h c (by simp)
    rw [Memory.read, if_neg (by omega)]
    exact ih fun d hd => h d (by simp [hd])

/-- A write makes its element read as the value written. -/
theorem Memory.read_write_same {m : Memory} (h : m.wf) (i : Nat) (v : F32) :
    Memory.read (Memory.write m i v) i = v := by
  induction m with
  | nil =>
    by_cases hv : v = Memory.blank <;> simp [Memory.write, Memory.read, hv]
  | cons c m ih =>
    obtain ⟨a, w⟩ := c
    have hp := List.pairwise_cons.mp h.1
    have hm : Memory.wf m := ⟨hp.2, fun d hd => h.2 d (by simp [hd])⟩
    rw [Memory.write]
    by_cases h1 : i < a
    · rw [if_pos h1]
      by_cases hv : v = Memory.blank
      · rw [if_pos hv, hv]
        refine Memory.read_of_lt fun d hd => ?_
        rcases List.mem_cons.mp hd with rfl | hd
        · exact h1
        · exact lt_trans h1 (hp.1 d hd)
      · simp [hv, Memory.read]
    · rw [if_neg h1]
      by_cases h2 : i = a
      · rw [if_pos h2]
        by_cases hv : v = Memory.blank
        · rw [if_pos hv, hv]
          exact Memory.read_of_lt fun d hd => h2 ▸ hp.1 d hd
        · simp [hv, Memory.read]
      · rw [if_neg h2, Memory.read, if_neg (fun e => h2 e.symm), ih hm]

/-- A write leaves every other element as it was. -/
theorem Memory.read_write_other (m : Memory) {i j : Nat} (h : j ≠ i) (v : F32) :
    Memory.read (Memory.write m i v) j = Memory.read m j := by
  have h' : i ≠ j := fun e => h e.symm
  induction m with
  | nil =>
    by_cases hv : v = Memory.blank <;> simp [Memory.write, Memory.read, hv, h']
  | cons c m ih =>
    obtain ⟨a, w⟩ := c
    rw [Memory.write]
    split_ifs with h1 hv h2 hv
    · rfl
    · simp [Memory.read, h']
    · subst h2
      simp [Memory.read, h']
    · subst h2
      simp [Memory.read, h']
    · simp only [Memory.read, ih]

/-- Everything a write does to a read. -/
theorem Memory.read_write {m : Memory} (h : m.wf) (i j : Nat) (v : F32) :
    Memory.read (Memory.write m i v) j = if j = i then v else Memory.read m j := by
  split
  · subst j
    exact Memory.read_write_same h i v
  · exact Memory.read_write_other m ‹_› v

/-- Every listed index after a write was listed before or is the one written. -/
theorem Memory.mem_write {m : Memory} {i : Nat} {v : F32} {c : Nat × F32}
    (h : c ∈ Memory.write m i v) : c ∈ m ∨ (c = (i, v) ∧ v ≠ Memory.blank) := by
  induction m with
  | nil =>
    by_cases hv : v = Memory.blank <;> simp_all [Memory.write]
  | cons d m ih =>
    obtain ⟨a, w⟩ := d
    rw [Memory.write] at h
    split_ifs at h with h1 hv h2 hv
    · exact .inl h
    · rcases List.mem_cons.mp h with h | h
      · exact .inr ⟨h, hv⟩
      · exact .inl h
    · exact .inl (List.mem_cons_of_mem _ h)
    · rcases List.mem_cons.mp h with h | h
      · exact .inr ⟨h, hv⟩
      · exact .inl (List.mem_cons_of_mem _ h)
    · rcases List.mem_cons.mp h with h | h
      · exact .inl (h ▸ List.mem_cons_self)
      · exact (ih h).imp (List.mem_cons_of_mem _) id

/-- A write keeps the canonical form. -/
theorem Memory.write_wf {m : Memory} (h : m.wf) (i : Nat) (v : F32) : (Memory.write m i v).wf := by
  refine ⟨?_, fun c hc => ?_⟩
  · induction m with
    | nil => by_cases hv : v = Memory.blank <;> simp [Memory.write, hv]
    | cons d m ih =>
      obtain ⟨a, w⟩ := d
      have hp := List.pairwise_cons.mp h.1
      have hm : Memory.wf m := ⟨hp.2, fun d hd => h.2 d (by simp [hd])⟩
      rw [Memory.write]
      split_ifs with h1 hv h2 hv
      · exact h.1
      · refine List.pairwise_cons.mpr ⟨fun c hc => ?_, h.1⟩
        rcases List.mem_cons.mp hc with rfl | hc
        · exact h1
        · exact lt_trans h1 (hp.1 c hc)
      · exact hp.2
      · exact List.pairwise_cons.mpr ⟨fun c hc => h2 ▸ hp.1 c hc, hp.2⟩
      · refine List.pairwise_cons.mpr ⟨fun c hc => ?_, ih hm⟩
        rcases Memory.mem_write hc with hc | ⟨rfl, -⟩
        · exact hp.1 c hc
        · show a < i
          omega
  · rcases Memory.mem_write hc with hc | ⟨rfl, hv⟩
    · exact h.2 c hc
    · exact hv

/-- A write below `n` keeps the bound `n`. -/
theorem Memory.write_within {m : Memory} {n : Nat} (h : m.within n) {i : Nat} (hi : i < n) (v : F32) :
    (Memory.write m i v).within n := by
  intro c hc
  rcases Memory.mem_write hc with hc | ⟨rfl, -⟩
  · exact h c hc
  · exact hi

theorem Memory.mem_fill {n : Nat} {f : Nat → F32} {c : Nat × F32} (h : c ∈ Memory.fill n f) :
    c.1 < n ∧ c.2 = f c.1 ∧ c.2 ≠ Memory.blank := by
  obtain ⟨h1, h2⟩ := List.mem_filter.mp h
  obtain ⟨i, hi, rfl⟩ := List.mem_map.mp h1
  exact ⟨List.mem_range.mp hi, rfl, by simpa using h2⟩

/-- A fill is in canonical form. -/
theorem Memory.fill_wf (n : Nat) (f : Nat → F32) : (Memory.fill n f).wf := by
  refine ⟨List.Pairwise.filter _ ?_, fun c hc => (Memory.mem_fill hc).2.2⟩
  exact List.Pairwise.map _ (fun a b h => h) List.pairwise_lt_range

/-- A fill of `n` elements lists no index of `n` or above. -/
theorem Memory.fill_within (n : Nat) (f : Nat → F32) : (Memory.fill n f).within n :=
  fun _ hc => (Memory.mem_fill hc).1

/-- An element that is listed, in a memory in canonical form, reads as its value. -/
theorem Memory.read_of_mem {m : Memory} (h : m.wf) {i : Nat} {v : F32} (hm : (i, v) ∈ m) :
    Memory.read m i = v := by
  induction m with
  | nil => cases hm
  | cons c m ih =>
    obtain ⟨a, w⟩ := c
    have hp := List.pairwise_cons.mp h.1
    rcases List.mem_cons.mp hm with he | hm
    · cases he
      simp [Memory.read]
    · have : a < i := hp.1 _ hm
      rw [Memory.read, if_neg (by omega)]
      exact ih ⟨hp.2, fun d hd => h.2 d (by simp [hd])⟩ hm

/-- An element whose index is not listed reads as the blank one. -/
theorem Memory.read_of_not_mem {m : Memory} {i : Nat} (h : ∀ c ∈ m, c.1 ≠ i) :
    Memory.read m i = Memory.blank := by
  induction m with
  | nil => rfl
  | cons c m ih =>
    rw [Memory.read, if_neg (h c (by simp))]
    exact ih fun d hd => h d (by simp [hd])

/-- An element at an index beyond the bound reads as the blank one. -/
theorem Memory.read_of_within {m : Memory} {n i : Nat} (h : m.within n) (hi : n ≤ i) :
    Memory.read m i = Memory.blank :=
  Memory.read_of_not_mem fun c hc => by have := h c hc; omega

/-- A filled memory reads as the function it was filled with. -/
theorem Memory.read_fill {n i : Nat} (f : Nat → F32) (h : i < n) :
    Memory.read (Memory.fill n f) i = f i := by
  by_cases hv : f i = Memory.blank
  · rw [hv]
    refine Memory.read_of_not_mem fun c hc he => ?_
    obtain ⟨-, h2, h3⟩ := Memory.mem_fill hc
    exact h3 (by rw [h2, he, hv])
  · refine Memory.read_of_mem (Memory.fill_wf n f) (List.mem_filter.mpr ⟨?_, by simpa using hv⟩)
    exact List.mem_map.mpr ⟨i, List.mem_range.mpr h, rfl⟩

/-- A filled memory reads as the blank element beyond its size. -/
theorem Memory.read_fill_beyond {n i : Nat} (f : Nat → F32) (h : n ≤ i) :
    Memory.read (Memory.fill n f) i = Memory.blank :=
  Memory.read_of_within (Memory.fill_within n f) h

/-- Everything a fill does to a read, over a memory of `n` elements. -/
theorem Memory.read_fill_over {m : Memory} {n : Nat} (h : m.within n) (f : Nat → F32) (i : Nat) :
    Memory.read (Memory.fill n f) i = if i < n then f i else Memory.read m i := by
  split
  · exact Memory.read_fill f ‹_›
  · rw [Memory.read_fill_beyond f (by omega), Memory.read_of_within h (by omega)]

/-- Right after reset every memory has the canonical form: nothing is listed. -/
theorem State.resetWith_memory_wf (c : Cfg) (sp : Space) :
    ((State.resetWith c).memory sp).wf ∧ ((State.resetWith c).memory sp).within (State.resetWith c).size := by
  cases sp <;> exact ⟨⟨List.Pairwise.nil, fun _ hc => by cases hc⟩, fun _ hc => by cases hc⟩

/-- The same of the default reset state. -/
theorem State.reset_memory_wf (sp : Space) : (State.reset.memory sp).wf :=
  (State.resetWith_memory_wf Cfg.default sp).1

end Sys2Proof.Machine
end

