-- ==== Sys2Proof/Laws/State.lean ====
section
/-!
SUPPORT. What each named update of the state does to each field: one lemma per field per update, so
that no later proof unfolds a record update; and what `setRequest` and `take` do.
-/

namespace Sys2Proof.Machine

open Sys2Proof

section Respond

variable (v : Word32) (s : State)

@[simp] theorem State.respond_wave : (s.respond v).wave = s.wave := rfl
@[simp] theorem State.respond_phase : (s.respond v).phase = s.phase := rfl
@[simp] theorem State.respond_targetFreq : (s.respond v).targetFreq = s.targetFreq := rfl
@[simp] theorem State.respond_amplitude : (s.respond v).amplitude = s.amplitude := rfl
@[simp] theorem State.respond_sampleRate : (s.respond v).sampleRate = s.sampleRate := rfl
@[simp] theorem State.respond_triDir : (s.respond v).triDir = s.triDir := rfl
@[simp] theorem State.respond_baseFreq : (s.respond v).baseFreq = s.baseFreq := rfl
@[simp] theorem State.respond_semitone : (s.respond v).semitone = s.semitone := rfl
@[simp] theorem State.respond_ampStep : (s.respond v).ampStep = s.ampStep := rfl
@[simp] theorem State.respond_wr : (s.respond v).wr = s.wr := rfl
@[simp] theorem State.respond_fill : (s.respond v).fill = s.fill := rfl
@[simp] theorem State.respond_snapv : (s.respond v).snapv = s.snapv := rfl
@[simp] theorem State.respond_specv : (s.respond v).specv = s.specv := rfl
@[simp] theorem State.respond_magv : (s.respond v).magv = s.magv := rfl
@[simp] theorem State.respond_err : (s.respond v).err = s.err := rfl
@[simp] theorem State.respond_win : (s.respond v).win = s.win := rfl
@[simp] theorem State.respond_snap : (s.respond v).snap = s.snap := rfl
@[simp] theorem State.respond_xre : (s.respond v).xre = s.xre := rfl
@[simp] theorem State.respond_xim : (s.respond v).xim = s.xim := rfl
@[simp] theorem State.respond_freq : (s.respond v).freq = s.freq := rfl
@[simp] theorem State.respond_log2n : (s.respond v).log2n = s.log2n := rfl
@[simp] theorem State.respond_sOut : (s.respond v).sOut = s.sOut := rfl
@[simp] theorem State.respond_rst : (s.respond v).rst = s.rst := rfl
@[simp] theorem State.respond_reqC : (s.respond v).reqC = s.reqC := rfl
@[simp] theorem State.respond_reqS : (s.respond v).reqS = s.reqS := rfl
@[simp] theorem State.respond_reqA : (s.respond v).reqA = s.reqA := rfl
@[simp] theorem State.respond_responses : (s.respond v).responses = s.responses ++ [⟨s.port, true, v⟩] := rfl
@[simp] theorem State.respond_port : (s.respond v).port = s.port := rfl
@[simp] theorem State.respond_everRejected : (s.respond v).everRejected = s.everRejected := rfl
@[simp] theorem State.respond_schedule : (s.respond v).schedule = s.schedule := rfl
@[simp] theorem State.respond_arb : (s.respond v).arb = s.arb := rfl

@[simp] theorem State.respond_size : (s.respond v).size = s.size := rfl
@[simp] theorem State.respond_memory (sp : Space) : (s.respond v).memory sp = s.memory sp := by
  cases sp <;> rfl
@[simp] theorem State.respond_memRead (sp : Space) (i : Nat) :
    (s.respond v).memRead sp i = s.memRead sp i := by cases sp <;> rfl

end Respond

section Emit

variable (v : F32) (s : State)

@[simp] theorem State.emit_wave : (s.emit v).wave = s.wave := rfl
@[simp] theorem State.emit_phase : (s.emit v).phase = s.phase := rfl
@[simp] theorem State.emit_targetFreq : (s.emit v).targetFreq = s.targetFreq := rfl
@[simp] theorem State.emit_amplitude : (s.emit v).amplitude = s.amplitude := rfl
@[simp] theorem State.emit_sampleRate : (s.emit v).sampleRate = s.sampleRate := rfl
@[simp] theorem State.emit_triDir : (s.emit v).triDir = s.triDir := rfl
@[simp] theorem State.emit_baseFreq : (s.emit v).baseFreq = s.baseFreq := rfl
@[simp] theorem State.emit_semitone : (s.emit v).semitone = s.semitone := rfl
@[simp] theorem State.emit_ampStep : (s.emit v).ampStep = s.ampStep := rfl
@[simp] theorem State.emit_wr : (s.emit v).wr = s.wr := rfl
@[simp] theorem State.emit_fill : (s.emit v).fill = s.fill := rfl
@[simp] theorem State.emit_snapv : (s.emit v).snapv = s.snapv := rfl
@[simp] theorem State.emit_specv : (s.emit v).specv = s.specv := rfl
@[simp] theorem State.emit_magv : (s.emit v).magv = s.magv := rfl
@[simp] theorem State.emit_err : (s.emit v).err = s.err := rfl
@[simp] theorem State.emit_win : (s.emit v).win = s.win := rfl
@[simp] theorem State.emit_snap : (s.emit v).snap = s.snap := rfl
@[simp] theorem State.emit_xre : (s.emit v).xre = s.xre := rfl
@[simp] theorem State.emit_xim : (s.emit v).xim = s.xim := rfl
@[simp] theorem State.emit_freq : (s.emit v).freq = s.freq := rfl
@[simp] theorem State.emit_log2n : (s.emit v).log2n = s.log2n := rfl
@[simp] theorem State.emit_sOut : (s.emit v).sOut = s.sOut ++ [v] := rfl
@[simp] theorem State.emit_rst : (s.emit v).rst = s.rst := rfl
@[simp] theorem State.emit_reqC : (s.emit v).reqC = s.reqC := rfl
@[simp] theorem State.emit_reqS : (s.emit v).reqS = s.reqS := rfl
@[simp] theorem State.emit_reqA : (s.emit v).reqA = s.reqA := rfl
@[simp] theorem State.emit_responses : (s.emit v).responses = s.responses := rfl
@[simp] theorem State.emit_port : (s.emit v).port = s.port := rfl
@[simp] theorem State.emit_everRejected : (s.emit v).everRejected = s.everRejected := rfl
@[simp] theorem State.emit_schedule : (s.emit v).schedule = s.schedule := rfl
@[simp] theorem State.emit_arb : (s.emit v).arb = s.arb := rfl

@[simp] theorem State.emit_size : (s.emit v).size = s.size := rfl
@[simp] theorem State.emit_memory (sp : Space) : (s.emit v).memory sp = s.memory sp := by
  cases sp <;> rfl
@[simp] theorem State.emit_memRead (sp : Space) (i : Nat) :
    (s.emit v).memRead sp i = s.memRead sp i := by cases sp <;> rfl

end Emit

section Reject

variable (op : BitVec 8) (code : ErrCode) (s : State)

@[simp] theorem State.reject_wave : (s.reject op code).wave = s.wave := rfl
@[simp] theorem State.reject_phase : (s.reject op code).phase = s.phase := rfl
@[simp] theorem State.reject_targetFreq : (s.reject op code).targetFreq = s.targetFreq := rfl
@[simp] theorem State.reject_amplitude : (s.reject op code).amplitude = s.amplitude := rfl
@[simp] theorem State.reject_sampleRate : (s.reject op code).sampleRate = s.sampleRate := rfl
@[simp] theorem State.reject_triDir : (s.reject op code).triDir = s.triDir := rfl
@[simp] theorem State.reject_baseFreq : (s.reject op code).baseFreq = s.baseFreq := rfl
@[simp] theorem State.reject_semitone : (s.reject op code).semitone = s.semitone := rfl
@[simp] theorem State.reject_ampStep : (s.reject op code).ampStep = s.ampStep := rfl
@[simp] theorem State.reject_wr : (s.reject op code).wr = s.wr := rfl
@[simp] theorem State.reject_fill : (s.reject op code).fill = s.fill := rfl
@[simp] theorem State.reject_snapv : (s.reject op code).snapv = s.snapv := rfl
@[simp] theorem State.reject_specv : (s.reject op code).specv = s.specv := rfl
@[simp] theorem State.reject_magv : (s.reject op code).magv = s.magv := rfl
@[simp] theorem State.reject_err : (s.reject op code).err = if errCode s.err = 0 then errWord op s.port code else s.err := rfl
@[simp] theorem State.reject_win : (s.reject op code).win = s.win := rfl
@[simp] theorem State.reject_snap : (s.reject op code).snap = s.snap := rfl
@[simp] theorem State.reject_xre : (s.reject op code).xre = s.xre := rfl
@[simp] theorem State.reject_xim : (s.reject op code).xim = s.xim := rfl
@[simp] theorem State.reject_freq : (s.reject op code).freq = s.freq := rfl
@[simp] theorem State.reject_log2n : (s.reject op code).log2n = s.log2n := rfl
@[simp] theorem State.reject_sOut : (s.reject op code).sOut = s.sOut := rfl
@[simp] theorem State.reject_rst : (s.reject op code).rst = s.rst := rfl
@[simp] theorem State.reject_reqC : (s.reject op code).reqC = s.reqC := rfl
@[simp] theorem State.reject_reqS : (s.reject op code).reqS = s.reqS := rfl
@[simp] theorem State.reject_reqA : (s.reject op code).reqA = s.reqA := rfl
@[simp] theorem State.reject_responses : (s.reject op code).responses = s.responses ++ [⟨s.port, false, code.num.setWidth 32⟩] := rfl
@[simp] theorem State.reject_port : (s.reject op code).port = s.port := rfl
@[simp] theorem State.reject_everRejected : (s.reject op code).everRejected = true := rfl
@[simp] theorem State.reject_schedule : (s.reject op code).schedule = s.schedule := rfl
@[simp] theorem State.reject_arb : (s.reject op code).arb = s.arb := rfl

@[simp] theorem State.reject_size : (s.reject op code).size = s.size := rfl
@[simp] theorem State.reject_memory (sp : Space) : (s.reject op code).memory sp = s.memory sp := by
  cases sp <;> rfl
@[simp] theorem State.reject_memRead (sp : Space) (i : Nat) :
    (s.reject op code).memRead sp i = s.memRead sp i := by cases sp <;> rfl

end Reject

section ClearErr

variable (s : State)

@[simp] theorem State.clearErr_wave : (s.clearErr).wave = s.wave := rfl
@[simp] theorem State.clearErr_phase : (s.clearErr).phase = s.phase := rfl
@[simp] theorem State.clearErr_targetFreq : (s.clearErr).targetFreq = s.targetFreq := rfl
@[simp] theorem State.clearErr_amplitude : (s.clearErr).amplitude = s.amplitude := rfl
@[simp] theorem State.clearErr_sampleRate : (s.clearErr).sampleRate = s.sampleRate := rfl
@[simp] theorem State.clearErr_triDir : (s.clearErr).triDir = s.triDir := rfl
@[simp] theorem State.clearErr_baseFreq : (s.clearErr).baseFreq = s.baseFreq := rfl
@[simp] theorem State.clearErr_semitone : (s.clearErr).semitone = s.semitone := rfl
@[simp] theorem State.clearErr_ampStep : (s.clearErr).ampStep = s.ampStep := rfl
@[simp] theorem State.clearErr_wr : (s.clearErr).wr = s.wr := rfl
@[simp] theorem State.clearErr_fill : (s.clearErr).fill = s.fill := rfl
@[simp] theorem State.clearErr_snapv : (s.clearErr).snapv = s.snapv := rfl
@[simp] theorem State.clearErr_specv : (s.clearErr).specv = s.specv := rfl
@[simp] theorem State.clearErr_magv : (s.clearErr).magv = s.magv := rfl
@[simp] theorem State.clearErr_err : (s.clearErr).err = 0 := rfl
@[simp] theorem State.clearErr_win : (s.clearErr).win = s.win := rfl
@[simp] theorem State.clearErr_snap : (s.clearErr).snap = s.snap := rfl
@[simp] theorem State.clearErr_xre : (s.clearErr).xre = s.xre := rfl
@[simp] theorem State.clearErr_xim : (s.clearErr).xim = s.xim := rfl
@[simp] theorem State.clearErr_freq : (s.clearErr).freq = s.freq := rfl
@[simp] theorem State.clearErr_log2n : (s.clearErr).log2n = s.log2n := rfl
@[simp] theorem State.clearErr_sOut : (s.clearErr).sOut = s.sOut := rfl
@[simp] theorem State.clearErr_rst : (s.clearErr).rst = s.rst := rfl
@[simp] theorem State.clearErr_reqC : (s.clearErr).reqC = s.reqC := rfl
@[simp] theorem State.clearErr_reqS : (s.clearErr).reqS = s.reqS := rfl
@[simp] theorem State.clearErr_reqA : (s.clearErr).reqA = s.reqA := rfl
@[simp] theorem State.clearErr_responses : (s.clearErr).responses = s.responses := rfl
@[simp] theorem State.clearErr_port : (s.clearErr).port = s.port := rfl
@[simp] theorem State.clearErr_everRejected : (s.clearErr).everRejected = s.everRejected := rfl
@[simp] theorem State.clearErr_schedule : (s.clearErr).schedule = s.schedule := rfl
@[simp] theorem State.clearErr_arb : (s.clearErr).arb = s.arb := rfl

@[simp] theorem State.clearErr_size : (s.clearErr).size = s.size := rfl
@[simp] theorem State.clearErr_memory (sp : Space) : (s.clearErr).memory sp = s.memory sp := by
  cases sp <;> rfl
@[simp] theorem State.clearErr_memRead (sp : Space) (i : Nat) :
    (s.clearErr).memRead sp i = s.memRead sp i := by cases sp <;> rfl

end ClearErr

section Retarget

variable (s : State)

@[simp] theorem State.retarget_wave : (s.retarget).wave = s.wave := rfl
@[simp] theorem State.retarget_phase : (s.retarget).phase = s.phase := rfl
@[simp] theorem State.retarget_targetFreq : (s.retarget).targetFreq = Num.f32.retarget s.baseFreq s.semitone := rfl
@[simp] theorem State.retarget_amplitude : (s.retarget).amplitude = s.amplitude := rfl
@[simp] theorem State.retarget_sampleRate : (s.retarget).sampleRate = s.sampleRate := rfl
@[simp] theorem State.retarget_triDir : (s.retarget).triDir = s.triDir := rfl
@[simp] theorem State.retarget_baseFreq : (s.retarget).baseFreq = s.baseFreq := rfl
@[simp] theorem State.retarget_semitone : (s.retarget).semitone = s.semitone := rfl
@[simp] theorem State.retarget_ampStep : (s.retarget).ampStep = s.ampStep := rfl
@[simp] theorem State.retarget_wr : (s.retarget).wr = s.wr := rfl
@[simp] theorem State.retarget_fill : (s.retarget).fill = s.fill := rfl
@[simp] theorem State.retarget_snapv : (s.retarget).snapv = s.snapv := rfl
@[simp] theorem State.retarget_specv : (s.retarget).specv = s.specv := rfl
@[simp] theorem State.retarget_magv : (s.retarget).magv = s.magv := rfl
@[simp] theorem State.retarget_err : (s.retarget).err = s.err := rfl
@[simp] theorem State.retarget_win : (s.retarget).win = s.win := rfl
@[simp] theorem State.retarget_snap : (s.retarget).snap = s.snap := rfl
@[simp] theorem State.retarget_xre : (s.retarget).xre = s.xre := rfl
@[simp] theorem State.retarget_xim : (s.retarget).xim = s.xim := rfl
@[simp] theorem State.retarget_freq : (s.retarget).freq = s.freq := rfl
@[simp] theorem State.retarget_log2n : (s.retarget).log2n = s.log2n := rfl
@[simp] theorem State.retarget_sOut : (s.retarget).sOut = s.sOut := rfl
@[simp] theorem State.retarget_rst : (s.retarget).rst = s.rst := rfl
@[simp] theorem State.retarget_reqC : (s.retarget).reqC = s.reqC := rfl
@[simp] theorem State.retarget_reqS : (s.retarget).reqS = s.reqS := rfl
@[simp] theorem State.retarget_reqA : (s.retarget).reqA = s.reqA := rfl
@[simp] theorem State.retarget_responses : (s.retarget).responses = s.responses := rfl
@[simp] theorem State.retarget_port : (s.retarget).port = s.port := rfl
@[simp] theorem State.retarget_everRejected : (s.retarget).everRejected = s.everRejected := rfl
@[simp] theorem State.retarget_schedule : (s.retarget).schedule = s.schedule := rfl
@[simp] theorem State.retarget_arb : (s.retarget).arb = s.arb := rfl

@[simp] theorem State.retarget_size : (s.retarget).size = s.size := rfl
@[simp] theorem State.retarget_memory (sp : Space) : (s.retarget).memory sp = s.memory sp := by
  cases sp <;> rfl
@[simp] theorem State.retarget_memRead (sp : Space) (i : Nat) :
    (s.retarget).memRead sp i = s.memRead sp i := by cases sp <;> rfl

end Retarget

section FlagsAfterSnap

variable (s : State)

@[simp] theorem State.flagsAfterSnap_wave : (s.flagsAfterSnap).wave = s.wave := rfl
@[simp] theorem State.flagsAfterSnap_phase : (s.flagsAfterSnap).phase = s.phase := rfl
@[simp] theorem State.flagsAfterSnap_targetFreq : (s.flagsAfterSnap).targetFreq = s.targetFreq := rfl
@[simp] theorem State.flagsAfterSnap_amplitude : (s.flagsAfterSnap).amplitude = s.amplitude := rfl
@[simp] theorem State.flagsAfterSnap_sampleRate : (s.flagsAfterSnap).sampleRate = s.sampleRate := rfl
@[simp] theorem State.flagsAfterSnap_triDir : (s.flagsAfterSnap).triDir = s.triDir := rfl
@[simp] theorem State.flagsAfterSnap_baseFreq : (s.flagsAfterSnap).baseFreq = s.baseFreq := rfl
@[simp] theorem State.flagsAfterSnap_semitone : (s.flagsAfterSnap).semitone = s.semitone := rfl
@[simp] theorem State.flagsAfterSnap_ampStep : (s.flagsAfterSnap).ampStep = s.ampStep := rfl
@[simp] theorem State.flagsAfterSnap_wr : (s.flagsAfterSnap).wr = s.wr := rfl
@[simp] theorem State.flagsAfterSnap_fill : (s.flagsAfterSnap).fill = s.fill := rfl
@[simp] theorem State.flagsAfterSnap_snapv : (s.flagsAfterSnap).snapv = true := rfl
@[simp] theorem State.flagsAfterSnap_specv : (s.flagsAfterSnap).specv = false := rfl
@[simp] theorem State.flagsAfterSnap_magv : (s.flagsAfterSnap).magv = false := rfl
@[simp] theorem State.flagsAfterSnap_err : (s.flagsAfterSnap).err = s.err := rfl
@[simp] theorem State.flagsAfterSnap_win : (s.flagsAfterSnap).win = s.win := rfl
@[simp] theorem State.flagsAfterSnap_snap : (s.flagsAfterSnap).snap = s.snap := rfl
@[simp] theorem State.flagsAfterSnap_xre : (s.flagsAfterSnap).xre = s.xre := rfl
@[simp] theorem State.flagsAfterSnap_xim : (s.flagsAfterSnap).xim = s.xim := rfl
@[simp] theorem State.flagsAfterSnap_freq : (s.flagsAfterSnap).freq = s.freq := rfl
@[simp] theorem State.flagsAfterSnap_log2n : (s.flagsAfterSnap).log2n = s.log2n := rfl
@[simp] theorem State.flagsAfterSnap_sOut : (s.flagsAfterSnap).sOut = s.sOut := rfl
@[simp] theorem State.flagsAfterSnap_rst : (s.flagsAfterSnap).rst = s.rst := rfl
@[simp] theorem State.flagsAfterSnap_reqC : (s.flagsAfterSnap).reqC = s.reqC := rfl
@[simp] theorem State.flagsAfterSnap_reqS : (s.flagsAfterSnap).reqS = s.reqS := rfl
@[simp] theorem State.flagsAfterSnap_reqA : (s.flagsAfterSnap).reqA = s.reqA := rfl
@[simp] theorem State.flagsAfterSnap_responses : (s.flagsAfterSnap).responses = s.responses := rfl
@[simp] theorem State.flagsAfterSnap_port : (s.flagsAfterSnap).port = s.port := rfl
@[simp] theorem State.flagsAfterSnap_everRejected : (s.flagsAfterSnap).everRejected = s.everRejected := rfl
@[simp] theorem State.flagsAfterSnap_schedule : (s.flagsAfterSnap).schedule = s.schedule := rfl
@[simp] theorem State.flagsAfterSnap_arb : (s.flagsAfterSnap).arb = s.arb := rfl

@[simp] theorem State.flagsAfterSnap_size : (s.flagsAfterSnap).size = s.size := rfl
@[simp] theorem State.flagsAfterSnap_memory (sp : Space) : (s.flagsAfterSnap).memory sp = s.memory sp := by
  cases sp <;> rfl
@[simp] theorem State.flagsAfterSnap_memRead (sp : Space) (i : Nat) :
    (s.flagsAfterSnap).memRead sp i = s.memRead sp i := by cases sp <;> rfl

end FlagsAfterSnap

section FlagsAfterFft

variable (s : State)

@[simp] theorem State.flagsAfterFft_wave : (s.flagsAfterFft).wave = s.wave := rfl
@[simp] theorem State.flagsAfterFft_phase : (s.flagsAfterFft).phase = s.phase := rfl
@[simp] theorem State.flagsAfterFft_targetFreq : (s.flagsAfterFft).targetFreq = s.targetFreq := rfl
@[simp] theorem State.flagsAfterFft_amplitude : (s.flagsAfterFft).amplitude = s.amplitude := rfl
@[simp] theorem State.flagsAfterFft_sampleRate : (s.flagsAfterFft).sampleRate = s.sampleRate := rfl
@[simp] theorem State.flagsAfterFft_triDir : (s.flagsAfterFft).triDir = s.triDir := rfl
@[simp] theorem State.flagsAfterFft_baseFreq : (s.flagsAfterFft).baseFreq = s.baseFreq := rfl
@[simp] theorem State.flagsAfterFft_semitone : (s.flagsAfterFft).semitone = s.semitone := rfl
@[simp] theorem State.flagsAfterFft_ampStep : (s.flagsAfterFft).ampStep = s.ampStep := rfl
@[simp] theorem State.flagsAfterFft_wr : (s.flagsAfterFft).wr = s.wr := rfl
@[simp] theorem State.flagsAfterFft_fill : (s.flagsAfterFft).fill = s.fill := rfl
@[simp] theorem State.flagsAfterFft_snapv : (s.flagsAfterFft).snapv = s.snapv := rfl
@[simp] theorem State.flagsAfterFft_specv : (s.flagsAfterFft).specv = true := rfl
@[simp] theorem State.flagsAfterFft_magv : (s.flagsAfterFft).magv = false := rfl
@[simp] theorem State.flagsAfterFft_err : (s.flagsAfterFft).err = s.err := rfl
@[simp] theorem State.flagsAfterFft_win : (s.flagsAfterFft).win = s.win := rfl
@[simp] theorem State.flagsAfterFft_snap : (s.flagsAfterFft).snap = s.snap := rfl
@[simp] theorem State.flagsAfterFft_xre : (s.flagsAfterFft).xre = s.xre := rfl
@[simp] theorem State.flagsAfterFft_xim : (s.flagsAfterFft).xim = s.xim := rfl
@[simp] theorem State.flagsAfterFft_freq : (s.flagsAfterFft).freq = s.freq := rfl
@[simp] theorem State.flagsAfterFft_log2n : (s.flagsAfterFft).log2n = s.log2n := rfl
@[simp] theorem State.flagsAfterFft_sOut : (s.flagsAfterFft).sOut = s.sOut := rfl
@[simp] theorem State.flagsAfterFft_rst : (s.flagsAfterFft).rst = s.rst := rfl
@[simp] theorem State.flagsAfterFft_reqC : (s.flagsAfterFft).reqC = s.reqC := rfl
@[simp] theorem State.flagsAfterFft_reqS : (s.flagsAfterFft).reqS = s.reqS := rfl
@[simp] theorem State.flagsAfterFft_reqA : (s.flagsAfterFft).reqA = s.reqA := rfl
@[simp] theorem State.flagsAfterFft_responses : (s.flagsAfterFft).responses = s.responses := rfl
@[simp] theorem State.flagsAfterFft_port : (s.flagsAfterFft).port = s.port := rfl
@[simp] theorem State.flagsAfterFft_everRejected : (s.flagsAfterFft).everRejected = s.everRejected := rfl
@[simp] theorem State.flagsAfterFft_schedule : (s.flagsAfterFft).schedule = s.schedule := rfl
@[simp] theorem State.flagsAfterFft_arb : (s.flagsAfterFft).arb = s.arb := rfl

@[simp] theorem State.flagsAfterFft_size : (s.flagsAfterFft).size = s.size := rfl
@[simp] theorem State.flagsAfterFft_memory (sp : Space) : (s.flagsAfterFft).memory sp = s.memory sp := by
  cases sp <;> rfl
@[simp] theorem State.flagsAfterFft_memRead (sp : Space) (i : Nat) :
    (s.flagsAfterFft).memRead sp i = s.memRead sp i := by cases sp <;> rfl

end FlagsAfterFft

section FlagsAfterMag

variable (s : State)

@[simp] theorem State.flagsAfterMag_wave : (s.flagsAfterMag).wave = s.wave := rfl
@[simp] theorem State.flagsAfterMag_phase : (s.flagsAfterMag).phase = s.phase := rfl
@[simp] theorem State.flagsAfterMag_targetFreq : (s.flagsAfterMag).targetFreq = s.targetFreq := rfl
@[simp] theorem State.flagsAfterMag_amplitude : (s.flagsAfterMag).amplitude = s.amplitude := rfl
@[simp] theorem State.flagsAfterMag_sampleRate : (s.flagsAfterMag).sampleRate = s.sampleRate := rfl
@[simp] theorem State.flagsAfterMag_triDir : (s.flagsAfterMag).triDir = s.triDir := rfl
@[simp] theorem State.flagsAfterMag_baseFreq : (s.flagsAfterMag).baseFreq = s.baseFreq := rfl
@[simp] theorem State.flagsAfterMag_semitone : (s.flagsAfterMag).semitone = s.semitone := rfl
@[simp] theorem State.flagsAfterMag_ampStep : (s.flagsAfterMag).ampStep = s.ampStep := rfl
@[simp] theorem State.flagsAfterMag_wr : (s.flagsAfterMag).wr = s.wr := rfl
@[simp] theorem State.flagsAfterMag_fill : (s.flagsAfterMag).fill = s.fill := rfl
@[simp] theorem State.flagsAfterMag_snapv : (s.flagsAfterMag).snapv = s.snapv := rfl
@[simp] theorem State.flagsAfterMag_specv : (s.flagsAfterMag).specv = s.specv := rfl
@[simp] theorem State.flagsAfterMag_magv : (s.flagsAfterMag).magv = s.specv := rfl
@[simp] theorem State.flagsAfterMag_err : (s.flagsAfterMag).err = s.err := rfl
@[simp] theorem State.flagsAfterMag_win : (s.flagsAfterMag).win = s.win := rfl
@[simp] theorem State.flagsAfterMag_snap : (s.flagsAfterMag).snap = s.snap := rfl
@[simp] theorem State.flagsAfterMag_xre : (s.flagsAfterMag).xre = s.xre := rfl
@[simp] theorem State.flagsAfterMag_xim : (s.flagsAfterMag).xim = s.xim := rfl
@[simp] theorem State.flagsAfterMag_freq : (s.flagsAfterMag).freq = s.freq := rfl
@[simp] theorem State.flagsAfterMag_log2n : (s.flagsAfterMag).log2n = s.log2n := rfl
@[simp] theorem State.flagsAfterMag_sOut : (s.flagsAfterMag).sOut = s.sOut := rfl
@[simp] theorem State.flagsAfterMag_rst : (s.flagsAfterMag).rst = s.rst := rfl
@[simp] theorem State.flagsAfterMag_reqC : (s.flagsAfterMag).reqC = s.reqC := rfl
@[simp] theorem State.flagsAfterMag_reqS : (s.flagsAfterMag).reqS = s.reqS := rfl
@[simp] theorem State.flagsAfterMag_reqA : (s.flagsAfterMag).reqA = s.reqA := rfl
@[simp] theorem State.flagsAfterMag_responses : (s.flagsAfterMag).responses = s.responses := rfl
@[simp] theorem State.flagsAfterMag_port : (s.flagsAfterMag).port = s.port := rfl
@[simp] theorem State.flagsAfterMag_everRejected : (s.flagsAfterMag).everRejected = s.everRejected := rfl
@[simp] theorem State.flagsAfterMag_schedule : (s.flagsAfterMag).schedule = s.schedule := rfl
@[simp] theorem State.flagsAfterMag_arb : (s.flagsAfterMag).arb = s.arb := rfl

@[simp] theorem State.flagsAfterMag_size : (s.flagsAfterMag).size = s.size := rfl
@[simp] theorem State.flagsAfterMag_memory (sp : Space) : (s.flagsAfterMag).memory sp = s.memory sp := by
  cases sp <;> rfl
@[simp] theorem State.flagsAfterMag_memRead (sp : Space) (i : Nat) :
    (s.flagsAfterMag).memRead sp i = s.memRead sp i := by cases sp <;> rfl

end FlagsAfterMag

section AssertReset

variable (s : State)

@[simp] theorem State.assertReset_wave : (s.assertReset).wave = s.wave := rfl
@[simp] theorem State.assertReset_phase : (s.assertReset).phase = s.phase := rfl
@[simp] theorem State.assertReset_targetFreq : (s.assertReset).targetFreq = s.targetFreq := rfl
@[simp] theorem State.assertReset_amplitude : (s.assertReset).amplitude = s.amplitude := rfl
@[simp] theorem State.assertReset_sampleRate : (s.assertReset).sampleRate = s.sampleRate := rfl
@[simp] theorem State.assertReset_triDir : (s.assertReset).triDir = s.triDir := rfl
@[simp] theorem State.assertReset_baseFreq : (s.assertReset).baseFreq = s.baseFreq := rfl
@[simp] theorem State.assertReset_semitone : (s.assertReset).semitone = s.semitone := rfl
@[simp] theorem State.assertReset_ampStep : (s.assertReset).ampStep = s.ampStep := rfl
@[simp] theorem State.assertReset_wr : (s.assertReset).wr = s.wr := rfl
@[simp] theorem State.assertReset_fill : (s.assertReset).fill = s.fill := rfl
@[simp] theorem State.assertReset_snapv : (s.assertReset).snapv = s.snapv := rfl
@[simp] theorem State.assertReset_specv : (s.assertReset).specv = s.specv := rfl
@[simp] theorem State.assertReset_magv : (s.assertReset).magv = s.magv := rfl
@[simp] theorem State.assertReset_err : (s.assertReset).err = s.err := rfl
@[simp] theorem State.assertReset_win : (s.assertReset).win = s.win := rfl
@[simp] theorem State.assertReset_snap : (s.assertReset).snap = s.snap := rfl
@[simp] theorem State.assertReset_xre : (s.assertReset).xre = s.xre := rfl
@[simp] theorem State.assertReset_xim : (s.assertReset).xim = s.xim := rfl
@[simp] theorem State.assertReset_freq : (s.assertReset).freq = s.freq := rfl
@[simp] theorem State.assertReset_log2n : (s.assertReset).log2n = s.log2n := rfl
@[simp] theorem State.assertReset_sOut : (s.assertReset).sOut = s.sOut := rfl
@[simp] theorem State.assertReset_rst : (s.assertReset).rst = true := rfl
@[simp] theorem State.assertReset_reqC : (s.assertReset).reqC = none := rfl
@[simp] theorem State.assertReset_reqS : (s.assertReset).reqS = none := rfl
@[simp] theorem State.assertReset_reqA : (s.assertReset).reqA = none := rfl
@[simp] theorem State.assertReset_responses : (s.assertReset).responses = s.responses := rfl
@[simp] theorem State.assertReset_port : (s.assertReset).port = s.port := rfl
@[simp] theorem State.assertReset_everRejected : (s.assertReset).everRejected = s.everRejected := rfl
@[simp] theorem State.assertReset_schedule : (s.assertReset).schedule = s.schedule := rfl
@[simp] theorem State.assertReset_arb : (s.assertReset).arb = s.arb := rfl

@[simp] theorem State.assertReset_size : (s.assertReset).size = s.size := rfl
@[simp] theorem State.assertReset_memory (sp : Space) : (s.assertReset).memory sp = s.memory sp := by
  cases sp <;> rfl
@[simp] theorem State.assertReset_memRead (sp : Space) (i : Nat) :
    (s.assertReset).memRead sp i = s.memRead sp i := by cases sp <;> rfl

end AssertReset

section SetRequest

variable (p : Port) (r : Option Request) (s : State)

@[simp] theorem State.setRequest_wave : (s.setRequest p r).wave = s.wave := by cases p <;> rfl
@[simp] theorem State.setRequest_phase : (s.setRequest p r).phase = s.phase := by cases p <;> rfl
@[simp] theorem State.setRequest_targetFreq : (s.setRequest p r).targetFreq = s.targetFreq := by cases p <;> rfl
@[simp] theorem State.setRequest_amplitude : (s.setRequest p r).amplitude = s.amplitude := by cases p <;> rfl
@[simp] theorem State.setRequest_sampleRate : (s.setRequest p r).sampleRate = s.sampleRate := by cases p <;> rfl
@[simp] theorem State.setRequest_triDir : (s.setRequest p r).triDir = s.triDir := by cases p <;> rfl
@[simp] theorem State.setRequest_baseFreq : (s.setRequest p r).baseFreq = s.baseFreq := by cases p <;> rfl
@[simp] theorem State.setRequest_semitone : (s.setRequest p r).semitone = s.semitone := by cases p <;> rfl
@[simp] theorem State.setRequest_ampStep : (s.setRequest p r).ampStep = s.ampStep := by cases p <;> rfl
@[simp] theorem State.setRequest_wr : (s.setRequest p r).wr = s.wr := by cases p <;> rfl
@[simp] theorem State.setRequest_fill : (s.setRequest p r).fill = s.fill := by cases p <;> rfl
@[simp] theorem State.setRequest_snapv : (s.setRequest p r).snapv = s.snapv := by cases p <;> rfl
@[simp] theorem State.setRequest_specv : (s.setRequest p r).specv = s.specv := by cases p <;> rfl
@[simp] theorem State.setRequest_magv : (s.setRequest p r).magv = s.magv := by cases p <;> rfl
@[simp] theorem State.setRequest_err : (s.setRequest p r).err = s.err := by cases p <;> rfl
@[simp] theorem State.setRequest_win : (s.setRequest p r).win = s.win := by cases p <;> rfl
@[simp] theorem State.setRequest_snap : (s.setRequest p r).snap = s.snap := by cases p <;> rfl
@[simp] theorem State.setRequest_xre : (s.setRequest p r).xre = s.xre := by cases p <;> rfl
@[simp] theorem State.setRequest_xim : (s.setRequest p r).xim = s.xim := by cases p <;> rfl
@[simp] theorem State.setRequest_freq : (s.setRequest p r).freq = s.freq := by cases p <;> rfl
@[simp] theorem State.setRequest_log2n : (s.setRequest p r).log2n = s.log2n := by cases p <;> rfl
@[simp] theorem State.setRequest_sOut : (s.setRequest p r).sOut = s.sOut := by cases p <;> rfl
@[simp] theorem State.setRequest_rst : (s.setRequest p r).rst = s.rst := by cases p <;> rfl
@[simp] theorem State.setRequest_responses : (s.setRequest p r).responses = s.responses := by cases p <;> rfl
@[simp] theorem State.setRequest_port : (s.setRequest p r).port = s.port := by cases p <;> rfl
@[simp] theorem State.setRequest_everRejected : (s.setRequest p r).everRejected = s.everRejected := by cases p <;> rfl
@[simp] theorem State.setRequest_schedule : (s.setRequest p r).schedule = s.schedule := by cases p <;> rfl
@[simp] theorem State.setRequest_arb : (s.setRequest p r).arb = s.arb := by cases p <;> rfl

@[simp] theorem State.setRequest_memory (sp : Space) : (s.setRequest p r).memory sp = s.memory sp := by
  cases p <;> cases sp <;> rfl
@[simp] theorem State.setRequest_memRead (sp : Space) (i : Nat) :
    (s.setRequest p r).memRead sp i = s.memRead sp i := by cases p <;> cases sp <;> rfl
@[simp] theorem State.setRequest_request_same : (s.setRequest p r).request p = r := by
  cases p <;> rfl
theorem State.setRequest_request_other (q : Port) (h : q ≠ p) :
    (s.setRequest p r).request q = s.request q := by
  cases p <;> cases q <;> first | rfl | exact absurd rfl h

end SetRequest

section Take

variable (p : Port) (s : State)

@[simp] theorem State.take_wave : (s.take p).wave = s.wave := by cases p <;> rfl
@[simp] theorem State.take_phase : (s.take p).phase = s.phase := by cases p <;> rfl
@[simp] theorem State.take_targetFreq : (s.take p).targetFreq = s.targetFreq := by cases p <;> rfl
@[simp] theorem State.take_amplitude : (s.take p).amplitude = s.amplitude := by cases p <;> rfl
@[simp] theorem State.take_sampleRate : (s.take p).sampleRate = s.sampleRate := by cases p <;> rfl
@[simp] theorem State.take_triDir : (s.take p).triDir = s.triDir := by cases p <;> rfl
@[simp] theorem State.take_baseFreq : (s.take p).baseFreq = s.baseFreq := by cases p <;> rfl
@[simp] theorem State.take_semitone : (s.take p).semitone = s.semitone := by cases p <;> rfl
@[simp] theorem State.take_ampStep : (s.take p).ampStep = s.ampStep := by cases p <;> rfl
@[simp] theorem State.take_wr : (s.take p).wr = s.wr := by cases p <;> rfl
@[simp] theorem State.take_fill : (s.take p).fill = s.fill := by cases p <;> rfl
@[simp] theorem State.take_snapv : (s.take p).snapv = s.snapv := by cases p <;> rfl
@[simp] theorem State.take_specv : (s.take p).specv = s.specv := by cases p <;> rfl
@[simp] theorem State.take_magv : (s.take p).magv = s.magv := by cases p <;> rfl
@[simp] theorem State.take_err : (s.take p).err = s.err := by cases p <;> rfl
@[simp] theorem State.take_win : (s.take p).win = s.win := by cases p <;> rfl
@[simp] theorem State.take_snap : (s.take p).snap = s.snap := by cases p <;> rfl
@[simp] theorem State.take_xre : (s.take p).xre = s.xre := by cases p <;> rfl
@[simp] theorem State.take_xim : (s.take p).xim = s.xim := by cases p <;> rfl
@[simp] theorem State.take_freq : (s.take p).freq = s.freq := by cases p <;> rfl
@[simp] theorem State.take_log2n : (s.take p).log2n = s.log2n := by cases p <;> rfl
@[simp] theorem State.take_sOut : (s.take p).sOut = s.sOut := by cases p <;> rfl
@[simp] theorem State.take_rst : (s.take p).rst = s.rst := by cases p <;> rfl
@[simp] theorem State.take_responses : (s.take p).responses = s.responses := by cases p <;> rfl
@[simp] theorem State.take_everRejected : (s.take p).everRejected = s.everRejected := by cases p <;> rfl
@[simp] theorem State.take_schedule : (s.take p).schedule = s.schedule := by cases p <;> rfl
@[simp] theorem State.take_arb : (s.take p).arb = s.arb := by cases p <;> rfl

@[simp] theorem State.take_port : (s.take p).port = p := rfl
@[simp] theorem State.take_memory (sp : Space) : (s.take p).memory sp = s.memory sp := by
  cases p <;> cases sp <;> rfl
@[simp] theorem State.take_memRead (sp : Space) (i : Nat) :
    (s.take p).memRead sp i = s.memRead sp i := by cases p <;> cases sp <;> rfl
@[simp] theorem State.take_request_same : (s.take p).request p = none := by cases p <;> rfl
theorem State.take_request_other (q : Port) (h : q ≠ p) : (s.take p).request q = s.request q := by
  cases p <;> cases q <;> first | rfl | exact absurd rfl h

end Take

end Sys2Proof.Machine
end

