-- ==== Sys2Proof/Laws/Ops.lean ====
section
/-!
SUPPORT. The spec lemmas of the shared operations: everything an admission, a push and an operand check
can do, said once.
-/

namespace Sys2Proof.Machine

open Sys2Proof

@[simp] theorem mapNext_next (f : State → State) (s : State) : mapNext f (.next s) = .next (f s) := rfl

/-- `mapNext` answers a next state only from one. -/
theorem mapNext_eq_next {f : State → State} {r : Result} {t : State} (h : mapNext f r = .next t) :
    ∃ u, r = .next u ∧ t = f u := by
  cases r with
  | next u => exact ⟨u, rfl, (Host.Outcome.next.inj h).symm⟩
  | fault _ => cases h
  | refused _ => cases h

/-- Everything the checks of the decode procedure can answer. -/
theorem checked_eq_ok {α : Type} {i : Instr} {p : Port} {operand : Except ErrCode α} {a : α} :
    checked i p operand = .ok a ↔ mayIssue i p = true ∧ operand = .ok a := by
  unfold checked
  split <;> simp [*]

section Admit

variable {α : Type} {i : Instr} {operand : Except ErrCode α} {body : α → State → Result} {s t : State}

theorem accept_accepted {a : α} (hp : mayIssue i s.port = true) (ho : operand = .ok a) :
    accept i operand body s = body a s := by simp [accept, checked, hp, ho]

/-- A command without an operand is admitted on its port. -/
theorem accept_noOperand {i : Instr} {body : Unit → State → Result} {s : State}
    (hp : mayIssue i s.port = true) : accept i noOperand body s = body () s :=
  accept_accepted hp (show noOperand = .ok () from rfl)

theorem accept_badOperand {code : ErrCode} (hp : mayIssue i s.port = true) (ho : operand = .error code) :
    accept i operand body s = .next (s.reject i.opcode code) := by simp [accept, checked, hp, ho]

theorem accept_wrongPort (hp : mayIssue i s.port = false) :
    accept i operand body s = .next (s.reject i.opcode .port) := by simp [accept, checked, hp]

/-- Everything an admission can do: reject with some code, or execute the body on a good operand. -/
theorem accept_eq_next (h : accept i operand body s = .next t) :
    (∃ code, t = s.reject i.opcode code)
      ∨ (mayIssue i s.port = true ∧ ∃ a, operand = .ok a ∧ body a s = .next t) := by
  unfold accept at h
  split at h
  · obtain ⟨hp, ho⟩ := checked_eq_ok.1 ‹_›
    exact .inr ⟨hp, _, ho, h⟩
  · exact .inl ⟨_, (Host.Outcome.next.inj h).symm⟩

end Admit

/-- A push answers a next state exactly where `WR < N`. -/
theorem State.pushSample_next {s : State} (h : s.wr < s.size) (v : F32) :
    s.pushSample v = .next { s with
      win := s.win.write s.wr v
      wr := (s.wr + 1) % s.size
      fill := min (s.fill + 1) s.size } := if_pos h

theorem State.pushSample_eq_next {s t : State} {v : F32} (h : s.pushSample v = .next t) :
    s.wr < s.size ∧ t = { s with
      win := s.win.write s.wr v
      wr := (s.wr + 1) % s.size
      fill := min (s.fill + 1) s.size } := by
  unfold State.pushSample at h
  split at h
  · exact ⟨‹_›, (Host.Outcome.next.inj h).symm⟩
  · cases h

theorem semitoneOperand_ok {a : BitVec 16} (h : a.toNat < 12) :
    semitoneOperand a = .ok ⟨a.toNat, h⟩ := dif_pos h

theorem indexOperand_ok {n : Nat} {a : BitVec 16} (h : a.toNat < n) :
    indexOperand n a = .ok a.toNat := if_pos h

theorem indexOperand_eq_ok {n k : Nat} {a : BitVec 16} (h : indexOperand n a = .ok k) :
    k = a.toNat ∧ a.toNat < n := by
  unfold indexOperand at h
  split at h
  · exact ⟨(Except.ok.inj h).symm, ‹_›⟩
  · cases h

theorem Num.operand_eq_ok {R : Type} {num : Num R} {v w : R} (h : num.operand v = .ok w) :
    w = v ∧ num.isFinite v = true := by
  unfold Num.operand at h
  split at h
  · exact ⟨(Except.ok.inj h).symm, ‹_›⟩
  · cases h

theorem realOperand_ok {v : F32} (h : v.isFinite = true) : realOperand v = .ok v := if_pos h

theorem realOperand_eq_ok {v w : F32} (h : realOperand v = .ok w) : w = v ∧ v.isFinite = true :=
  Num.operand_eq_ok h

/-- A word the rejection records has the code, the port and the opcode it was made from, and zeros in
its reserved bits. -/
theorem errWord_fields (op : BitVec 8) (p : Port) (code : ErrCode) :
    errCode (errWord op p code) = code.num ∧ errPort (errWord op p code) = p.num
      ∧ errOpc (errWord op p code) = op ∧ (errWord op p code).extractLsb' 6 2 = 0
      ∧ (errWord op p code).extractLsb' 16 16 = 0 := by
  revert op
  cases p <;> cases code <;> decide +kernel

end Sys2Proof.Machine
end

