-- ==== Sys2Proof/Laws/Block.lean ====
section
/-!
SUPPORT. The laws of the block over any numerics: the fields of `NUM_REAL`, what an admission answers, and
what the hardware's shared operations do to the block of a state.
-/

namespace Sys2Proof.Machine

open Sys2Proof

@[simp] theorem Num.real_sel : Num.real.sel = .real := rfl
@[simp] theorem Num.real_ofInt (n : Int) : Num.real.ofInt n = (n : ℝ) := rfl
@[simp] theorem Num.real_add (a b : ℝ) : Num.real.add a b = a + b := rfl
@[simp] theorem Num.real_sub (a b : ℝ) : Num.real.sub a b = a - b := rfl
@[simp] theorem Num.real_mul (a b : ℝ) : Num.real.mul a b = a * b := rfl
@[simp] theorem Num.real_div (a b : ℝ) : Num.real.div a b = a / b := rfl
@[simp] theorem Num.real_neg (a : ℝ) : Num.real.neg a = -a := rfl
@[simp] theorem Num.real_sin (a : ℝ) : Num.real.sin a = Real.sin a := rfl
@[simp] theorem Num.real_cos (a : ℝ) : Num.real.cos a = Real.cos a := rfl
@[simp] theorem Num.real_sqrt (a : ℝ) : Num.real.sqrt a = Real.sqrt a := rfl
@[simp] theorem Num.real_pi : Num.real.pi = Real.pi := rfl
@[simp] theorem Num.real_pi2 : Num.real.pi2 = 2 * Real.pi := rfl
@[simp] theorem Num.real_isFinite (a : ℝ) : Num.real.isFinite a = true := rfl
@[simp] theorem Num.real_lt {a b : ℝ} : Num.real.lt a b = true ↔ a < b := by simp [Num.real]
@[simp] theorem Num.real_le {a b : ℝ} : Num.real.le a b = true ↔ a ≤ b := by simp [Num.real]
@[simp] theorem Num.real_gt {a b : ℝ} : Num.real.gt a b = true ↔ b < a := Num.real_lt
@[simp] theorem Num.real_ge {a b : ℝ} : Num.real.ge a b = true ↔ b ≤ a := Num.real_le

/-- Everything a release of reset can do. -/
theorem Block.release_eq_next {R : Type} {num : Num R} {c : CfgOf R} {b : Block R}
    (h : Block.release num c = .next b) : ∃ hl : CfgOf.legal num c = true, b = Block.reset num c hl := by
  unfold Block.release at h
  split at h
  · exact ⟨‹_›, (Host.Outcome.next.inj h).symm⟩
  · cases h

theorem Block.release_legal {R : Type} {num : Num R} {c : CfgOf R} (h : CfgOf.legal num c = true) :
    Block.release num c = .next (Block.reset num c h) := dif_pos h

theorem Block.release_illegal {R : Type} {num : Num R} {c : CfgOf R} (h : CfgOf.legal num c = false) :
    Block.release num c = .refused .illegalCfg := dif_neg (by simp [h])

section Accept

variable {R α : Type} {i : Instr} {p : Port} {operand : Except ErrCode α} {body : α → Block R × Payload R}
  {b : Block R}

theorem Block.accept_ok {a : α} (h : checked i p operand = .ok a) :
    b.accept i p operand body = ((body a).1, ⟨true, (body a).2⟩) := by simp [Block.accept, h]

theorem Block.accept_error {code : ErrCode} (h : checked i p operand = .error code) :
    b.accept i p operand body = b.reject i.opcode p code := by simp [Block.accept, h]

end Accept

@[simp] theorem State.respond_block (v : Word32) (s : State) : (s.respond v).block = s.block := rfl

/-- The rejection of the hardware is the rejection of the block. -/
theorem State.reject_block (op : BitVec 8) (code : ErrCode) (s : State) :
    (s.reject op code).block = (s.block.reject op s.port code).1 := rfl

/-- A push of the hardware is the push of the block. -/
theorem State.pushSample_block {s t : State} {v : F32} (hm : s.win.wf) (h : s.pushSample v = .next t) :
    t.block = s.block.push v := by
  obtain ⟨-, rfl⟩ := State.pushSample_eq_next h
  simp only [State.block, Block.push, Block.mk.injEq, true_and, and_true]
  funext sp i
  cases sp <;> simp [State.memRead, State.memory]
  exact Memory.read_write hm _ _ _

end Sys2Proof.Machine
end

