-- ==== Sys2Proof/Laws/Decode.lean ====
section
/-!
SUPPORT. The laws of the command word: the fields of an assembled word, the word that a word's bytes
carry, and what the byte and table decoders answer in terms of `decode`.
-/

namespace Sys2Proof

/-- The value of an assembled word. -/
theorem assembled_toNat (op rsv : BitVec 8) (arg : BitVec 16) :
    (op ++ rsv ++ arg).toNat = op.toNat * 2 ^ 24 + rsv.toNat * 2 ^ 16 + arg.toNat := by
  have h1 := rsv.isLt
  have h2 := arg.isLt
  rw [BitVec.toNat_append, BitVec.toNat_append, ← Nat.shiftLeft_add_eq_or_of_lt h1,
    ← Nat.shiftLeft_add_eq_or_of_lt h2]
  simp only [Nat.shiftLeft_eq]
  omega

/-- The fields of the word assembled from an opcode, a reserved field and an argument. -/
theorem assembled_fields (op rsv : BitVec 8) (arg : BitVec 16) :
    opField (op ++ rsv ++ arg) = op ∧ rsvField (op ++ rsv ++ arg) = rsv
      ∧ argField (op ++ rsv ++ arg) = arg := by
  have h0 := op.isLt
  have h1 := rsv.isLt
  have h2 := arg.isLt
  refine ⟨?_, ?_, ?_⟩ <;> apply BitVec.eq_of_toNat_eq <;>
    simp only [opField, rsvField, argField, BitVec.extractLsb'_toNat, assembled_toNat,
      Nat.shiftRight_eq_div_pow] <;>
    omega

/-- A command word is assembled from its fields. -/
theorem word_of_fields (cw : Word32) : opField cw ++ rsvField cw ++ argField cw = cw := by
  apply BitVec.eq_of_toNat_eq
  have := cw.isLt
  simp only [assembled_toNat, opField, rsvField, argField, BitVec.extractLsb'_toNat,
    Nat.shiftRight_eq_div_pow]
  omega

/-- The bytes of a word carry the word (20_memory.md R52). -/
theorem bytesWord_bytes (w : Word32) :
    bytesWord (w.extractLsb' 0 8) (w.extractLsb' 8 8) (w.extractLsb' 16 8) (w.extractLsb' 24 8) = w := by
  apply BitVec.eq_of_toNat_eq
  simp only [bytesWord, BitVec.extractLsb'_toNat, BitVec.toNat_append, Nat.shiftRight_eq_div_pow]
  have := w.isLt
  rw [← Nat.shiftLeft_add_eq_or_of_lt (by omega), ← Nat.shiftLeft_add_eq_or_of_lt (by omega),
    ← Nat.shiftLeft_add_eq_or_of_lt (by omega)]
  simp only [Nat.shiftLeft_eq]
  omega

/-- A serialised request decodes as its two words do. -/
theorem decodeBytes_words (cw data : Word32) :
    decodeBytes (wordBytes cw ++ wordBytes data) = decode cw data := by
  simp only [wordBytes, List.cons_append, List.nil_append, decodeBytes, bytesWord_bytes]

/-- What the table decoder reads is what `decode` answers on the table's two words. -/
theorem decodeTableWord_eq_some {nbits w : Nat} {i : Instr} (h : decodeTableWord nbits w = some i) :
    decode (tableCw w) (tableData nbits w) = .ok i := by
  unfold decodeTableWord at h
  rw [decodeBytes_words] at h
  split at h
  · rw [‹decode _ _ = _›, Option.some.inj h]
  · cases h

/-- The fields of an encoded command. -/
theorem encode_fields (i : Instr) :
    opField (encode i).1 = i.opcode ∧ rsvField (encode i).1 = 0 ∧ argField (encode i).1 = i.arg :=
  assembled_fields i.opcode 0 i.arg

theorem decodeFA_eq_ok {cw : Word32} {command : BitVec 16 → Instr} {i : Instr}
    (h : decodeFA cw command = .ok i) : rsvField cw = 0 ∧ command (argField cw) = i := by
  unfold decodeFA at h
  split at h
  · exact ⟨‹_›, Except.ok.inj h⟩
  · cases h

theorem decodeBare_eq_ok {cw : Word32} {command i : Instr} (h : decodeBare cw command = .ok i) :
    rsvField cw = 0 ∧ argField cw = 0 ∧ command = i := by
  unfold decodeBare at h
  split at h
  · split at h
    · exact ⟨‹_›, ‹_›, Except.ok.inj h⟩
    · cases h
  · cases h

/-- Everything a decoded command says about its words: the three fields, and the operand word of an `FD`
command. -/
theorem decode_eq_ok {cw data : Word32} {i : Instr} (h : decode cw data = .ok i) :
    opField cw = i.opcode ∧ rsvField cw = 0 ∧ argField cw = i.arg
      ∧ (i.format = .fd → i.data = data) := by
  unfold decode at h
  split at h
  all_goals first
    | cases h
    | (obtain ⟨h1, h2⟩ := decodeFA_eq_ok h
       subst h2
       exact ⟨‹_›, h1, rfl, by simp [Instr.format]⟩)
    | (obtain ⟨h1, h2, h3⟩ := decodeBare_eq_ok h
       subst h3
       exact ⟨‹_›, h1, h2, by simp [Instr.format, Instr.data, Machine.encR, Machine.decR]⟩)

/-- A decoding with `data` as the operand word of an `FD` command. -/
def withOperand (data : Word32) : Except DecodeError Instr → Except DecodeError Instr
  | .ok (.setbase _) => .ok (.setbase (Machine.decR data))
  | .ok (.push _) => .ok (.push (Machine.decR data))
  | d => d

/-- The operand word reaches nothing but the operand of an `FD` command. -/
theorem decode_eq_withOperand (cw data : Word32) : decode cw data = withOperand data (decode cw 0) := by
  unfold decode
  split <;> (try simp only [decodeFA, decodeBare]) <;> (try split_ifs) <;> rfl

end Sys2Proof
end

