-- ==== Sys2Proof/Laws/Float.lean ====
section
/-!
SUPPORT. The laws of the binary32 operations that proofs cite: the hardware instance's fields, what a
packed datum reads as, that rounding never passes the infinity, and when a result is a NaN.
-/

namespace Sys2Proof.Machine

open Sys2Proof

@[simp] theorem Num.f32_ofInt (n : Int) : Num.f32.ofInt n = F32.ofInt n := rfl
@[simp] theorem Num.f32_add (a b : F32) : Num.f32.add a b = F32.add a b := rfl
@[simp] theorem Num.f32_sub (a b : F32) : Num.f32.sub a b = F32.sub a b := rfl
@[simp] theorem Num.f32_mul (a b : F32) : Num.f32.mul a b = F32.mul a b := rfl
@[simp] theorem Num.f32_div (a b : F32) : Num.f32.div a b = F32.div a b := rfl
@[simp] theorem Num.f32_neg (a : F32) : Num.f32.neg a = F32.neg a := rfl
@[simp] theorem Num.f32_lt (a b : F32) : Num.f32.lt a b = F32.lt a b := rfl
@[simp] theorem Num.f32_le (a b : F32) : Num.f32.le a b = F32.le a b := rfl
@[simp] theorem Num.f32_pow2 (n : Fin 12) : Num.f32.pow2 n = F32.pow2Table n := rfl
@[simp] theorem encR_eq (v : F32) : encR v = v := rfl
@[simp] theorem decR_eq (w : Word32) : decR w = w := rfl

end Sys2Proof.Machine

namespace Sys2Proof

theorem F32.ofInt_zero : F32.ofInt 0 = 0 := by decide +kernel

/-- Rounding gives at most the infinity's bits. -/
theorem F32.roundMag_le (num den : Nat) : F32.roundMag num den ≤ 0x7F800000 := Nat.min_le_right _ _

theorem F32.expField_eq (x : F32) : x.expField = x.toNat / 2 ^ 23 % 2 ^ 8 := by
  simp [F32.expField, Nat.shiftRight_eq_div_pow]

theorem F32.frac_eq (x : F32) : x.frac = x.toNat % 2 ^ 23 := by
  simp [F32.frac]

theorem F32.sign_eq (x : F32) : x.sign = decide (2 ^ 31 ≤ x.toNat) := by
  have := x.isLt
  rw [F32.sign, BitVec.getLsbD, Nat.testBit_eq_decide_div_mod_eq]
  congr 1
  apply propext
  omega

theorem F32.pack_toNat {neg : Bool} {bits : Nat} (h : bits < 2 ^ 31) :
    (F32.pack neg bits).toNat = if neg then bits + 2 ^ 31 else bits := by
  cases neg
  · simp [F32.pack, BitVec.toNat_ofNat]
    omega
  · simp [F32.pack, BitVec.toNat_ofNat]
    omega

@[simp] theorem F32.pack_sign {neg : Bool} {bits : Nat} (h : bits < 2 ^ 31) :
    (F32.pack neg bits).sign = neg := by
  rw [F32.sign_eq, F32.pack_toNat h]
  cases neg
  · simp; omega
  · simp

theorem F32.pack_expField {neg : Bool} {bits : Nat} (h : bits < 2 ^ 31) :
    (F32.pack neg bits).expField = bits / 2 ^ 23 := by
  rw [F32.expField_eq, F32.pack_toNat h]
  cases neg
  · simp; omega
  · simp; omega

theorem F32.pack_frac {neg : Bool} {bits : Nat} (h : bits < 2 ^ 31) :
    (F32.pack neg bits).frac = bits % 2 ^ 23 := by
  rw [F32.frac_eq, F32.pack_toNat h]
  cases neg
  · simp
  · simp; omega

/-- A packed datum whose bits do not pass the infinity's is no NaN. -/
theorem F32.pack_isNaN {neg : Bool} {bits : Nat} (h : bits ≤ 0x7F800000) :
    (F32.pack neg bits).isNaN = false := by
  have h' : bits < 2 ^ 31 := by omega
  rw [F32.isNaN, F32.pack_expField h', F32.pack_frac h', Bool.and_eq_false_iff, beq_eq_false_iff_ne,
    bne_eq_false_iff_eq]
  omega

/-- A sum of two data is the NaN given, one of the two, or a packed datum. -/
theorem F32.sum_cases {nan x y : F32} (hx : x.isNaN = false) (hy : y.isNaN = false)
    (h : x.isInf = false ∨ y.isInf = false) :
    F32.sum nan x y = x ∨ F32.sum nan x y = y
      ∨ ∃ neg bits, bits ≤ 0x7F800000 ∧ F32.sum nan x y = F32.pack neg bits := by
  unfold F32.sum
  rw [if_neg (by rw [hx, hy]; decide)]
  by_cases h1 : x.isInf = true
  · have h2 : y.isInf = false := h.resolve_left (by rw [h1]; decide)
    rw [if_pos h1, if_neg (by rw [h2]; simp)]
    exact .inl rfl
  · rw [if_neg h1]
    by_cases h2 : y.isInf = true
    · rw [if_pos h2]
      exact .inr (.inl rfl)
    · rw [if_neg h2]
      by_cases h3 : x.toInt + y.toInt = 0
      · simp only [if_pos h3]
        exact .inr (.inr ⟨_, _, by norm_num, rfl⟩)
      · simp only [if_neg h3]
        exact .inr (.inr ⟨_, _, F32.roundMag_le _ _, rfl⟩)

/-- The sum of two data of which none is a NaN and at most one is infinite is no NaN. -/
theorem F32.sum_isNaN {nan x y : F32} (hx : x.isNaN = false) (hy : y.isNaN = false)
    (h : x.isInf = false ∨ y.isInf = false) : (F32.sum nan x y).isNaN = false := by
  rcases F32.sum_cases (nan := nan) hx hy h with e | e | ⟨neg, bits, hb, e⟩
  · rw [e, hx]
  · rw [e, hy]
  · rw [e, F32.pack_isNaN hb]

/-- A datum without sign is not below zero. -/
theorem F32.toInt_nonneg {x : F32} (h : x.sign = false) : 0 ≤ x.toInt := by
  simp [F32.toInt, h]

/-- A datum is its sign and the rest of its bits. -/
theorem F32.pack_self (x : F32) : F32.pack x.sign (x.toNat % 2 ^ 31) = x := by
  have h := x.isLt
  apply BitVec.eq_of_toNat_eq
  rw [F32.pack_toNat (Nat.mod_lt _ (by norm_num)), F32.sign_eq]
  by_cases hs : 2 ^ 31 ≤ x.toNat
  · rw [decide_eq_true hs, if_pos rfl]
    omega
  · rw [decide_eq_false hs, if_neg (by decide)]
    omega

/-- The bits of a datum without its sign, by its fields. -/
theorem F32.bits_eq (x : F32) : x.toNat % 2 ^ 31 = x.expField * 2 ^ 23 + x.frac := by
  rw [F32.expField_eq, F32.frac_eq]
  omega

theorem F32.frac_lt (x : F32) : x.frac < 2 ^ 23 := (x.extractLsb' 0 23).isLt

theorem F32.expField_lt {x : F32} (h : x.isFinite = true) : x.expField < 255 := by
  have h1 : x.expField < 2 ^ 8 := (x.extractLsb' 23 8).isLt
  have h2 : x.expField ≠ 255 := by simpa [F32.isFinite] using h
  omega

/-- Rounding is exact on the magnitude of a finite datum. -/
theorem F32.roundMag_mag {x : F32} (h : x.isFinite = true) {d : Nat} (hd : 0 < d) :
    F32.roundMag (x.mag * d) d = x.toNat % 2 ^ 31 := by
  have hf := x.frac_lt
  have he := F32.expField_lt h
  have exact : ∀ q e, F32.nearestEven (q * 2 ^ e * d) (d * 2 ^ e) = q := by
    intro q e
    have hp : 0 < d * 2 ^ e := Nat.mul_pos hd (Nat.two_pow_pos e)
    have hq : q * 2 ^ e * d = (d * 2 ^ e) * q := by ring
    simp only [F32.nearestEven, hq, Nat.mul_div_cancel_left _ hp, Nat.mul_mod_right, Nat.mul_zero, hp,
      if_true]
  rw [F32.bits_eq]
  simp only [F32.roundMag, Nat.mul_div_cancel _ hd, Nat.shiftLeft_eq]
  by_cases h0 : x.expField = 0
  · have hm : x.mag = x.frac := by simp [F32.mag, h0]
    have hl : Nat.log2 x.frac - 23 = 0 := by
      by_cases hz : x.frac = 0
      · simp [hz]
      · have := (Nat.log2_lt hz).2 hf
        omega
    have hx := exact x.frac 0
    rw [pow_zero, Nat.mul_one, Nat.mul_one] at hx
    rw [hm, hl, h0, pow_zero, Nat.mul_one, hx]
    omega
  · have hm : x.mag = (x.frac + 2 ^ 23) * 2 ^ (x.expField - 1) := by
      simp [F32.mag, h0, Nat.shiftLeft_eq]
    have hl : Nat.log2 x.mag - 23 = x.expField - 1 := by
      have : Nat.log2 x.mag = 23 + (x.expField - 1) := by
        rw [hm, Nat.log2_eq_iff (by positivity)]
        constructor
        · rw [pow_add]
          exact Nat.mul_le_mul_right _ (by omega)
        · rw [show 23 + (x.expField - 1) + 1 = 24 + (x.expField - 1) by omega, pow_add]
          exact Nat.mul_lt_mul_of_pos_right (by omega) (by positivity)
      omega
    rw [hl, hm, exact]
    omega

/-- Rounding is exact on the magnitude of a finite datum, taken over one. -/
theorem F32.roundMag_mag_one {x : F32} (h : x.isFinite = true) :
    F32.roundMag x.mag 1 = x.toNat % 2 ^ 31 := by
  simpa using F32.roundMag_mag h (d := 1) Nat.one_pos

@[simp] theorem F32.neg_sign (x : F32) : x.neg.sign = !x.sign := by
  simp [F32.sign, F32.neg]

theorem F32.neg_expField (x : F32) : x.neg.expField = x.expField := by
  simp only [F32.expField, F32.neg]
  congr 1
  ext i hi
  have : (2147483648#32).getLsbD (23 + i) = false := by interval_cases i <;> decide
  simp [this]

theorem F32.neg_frac (x : F32) : x.neg.frac = x.frac := by
  simp only [F32.frac, F32.neg]
  congr 1
  ext i hi
  have : (2147483648#32).getLsbD i = false := by interval_cases i <;> decide
  simp [this]

theorem F32.neg_isFinite (x : F32) : x.neg.isFinite = x.isFinite := by
  simp [F32.isFinite, F32.neg_expField]

/-- `neg` negates the value. -/
theorem F32.neg_toInt (x : F32) : x.neg.toInt = -x.toInt := by
  have hm : x.neg.mag = x.mag := by simp [F32.mag, F32.neg_expField, F32.neg_frac]
  cases hs : x.sign <;> simp [F32.toInt, hs, hm]

/-- A finite datum is neither an infinity nor a NaN. -/
theorem F32.not_inf_nan {x : F32} (h : x.isFinite = true) : x.isInf = false ∧ x.isNaN = false := by
  have : (x.expField == 255) = false := by simpa [F32.isFinite] using h
  simp [F32.isInf, F32.isNaN, this]

end Sys2Proof
end

