-- ==== Sys2Proof/Laws/PerInstr.lean ====
section
/-!
SUPPORT. What holds of every command as syntax, said per command: the family `CommandWord` of LAWS.json.
-/

namespace Sys2Proof

/-- The encoding of a command has the layout of 30_encoding.md R71: its opcode in `op`, zero in `rsv`,
its argument in `arg`, which is zero where the format is not `FA`, and zero in an ignored operand word. -/
def Laws.CommandWord.Statement (i : Instr) : Prop :=
  opField (encode i).1 = i.opcode ∧ rsvField (encode i).1 = 0 ∧ argField (encode i).1 = i.arg
    ∧ (i.format ≠ .fa → i.arg = 0) ∧ (i.format ≠ .fd → (encode i).2 = 0)

/-- The statement's parts that are the same for every command. -/
theorem Laws.CommandWord.of_format {i : Instr} (ha : i.format ≠ .fa → i.arg = 0)
    (hd : i.format ≠ .fd → i.data = 0) : Laws.CommandWord.Statement i :=
  ⟨(encode_fields i).1, (encode_fields i).2.1, (encode_fields i).2.2, ha, hd⟩

theorem Laws.CommandWord.rdreg (r : BitVec 16) : Laws.CommandWord.Statement (.rdreg r) :=
  Laws.CommandWord.of_format (fun h => absurd rfl h) (fun _ => rfl)

theorem Laws.CommandWord.setbase (v : F32) : Laws.CommandWord.Statement (.setbase v) :=
  Laws.CommandWord.of_format (fun _ => rfl) (fun h => absurd rfl h)

theorem Laws.CommandWord.trup : Laws.CommandWord.Statement .trup :=
  Laws.CommandWord.of_format (fun _ => rfl) (fun _ => rfl)

theorem Laws.CommandWord.trdn : Laws.CommandWord.Statement .trdn :=
  Laws.CommandWord.of_format (fun _ => rfl) (fun _ => rfl)

theorem Laws.CommandWord.note (s : BitVec 16) : Laws.CommandWord.Statement (.note s) :=
  Laws.CommandWord.of_format (fun h => absurd rfl h) (fun _ => rfl)

theorem Laws.CommandWord.wave (w : BitVec 16) : Laws.CommandWord.Statement (.wave w) :=
  Laws.CommandWord.of_format (fun h => absurd rfl h) (fun _ => rfl)

theorem Laws.CommandWord.ampup : Laws.CommandWord.Statement .ampup :=
  Laws.CommandWord.of_format (fun _ => rfl) (fun _ => rfl)

theorem Laws.CommandWord.ampdn : Laws.CommandWord.Statement .ampdn :=
  Laws.CommandWord.of_format (fun _ => rfl) (fun _ => rfl)

theorem Laws.CommandWord.clrerr : Laws.CommandWord.Statement .clrerr :=
  Laws.CommandWord.of_format (fun _ => rfl) (fun _ => rfl)

theorem Laws.CommandWord.tick : Laws.CommandWord.Statement .tick :=
  Laws.CommandWord.of_format (fun _ => rfl) (fun _ => rfl)

theorem Laws.CommandWord.push (v : F32) : Laws.CommandWord.Statement (.push v) :=
  Laws.CommandWord.of_format (fun _ => rfl) (fun h => absurd rfl h)

theorem Laws.CommandWord.snap : Laws.CommandWord.Statement .snap :=
  Laws.CommandWord.of_format (fun _ => rfl) (fun _ => rfl)

theorem Laws.CommandWord.fft : Laws.CommandWord.Statement .fft :=
  Laws.CommandWord.of_format (fun _ => rfl) (fun _ => rfl)

theorem Laws.CommandWord.mag : Laws.CommandWord.Statement .mag :=
  Laws.CommandWord.of_format (fun _ => rfl) (fun _ => rfl)

theorem Laws.CommandWord.rdsnap (i : BitVec 16) : Laws.CommandWord.Statement (.rdsnap i) :=
  Laws.CommandWord.of_format (fun h => absurd rfl h) (fun _ => rfl)

theorem Laws.CommandWord.rdre (k : BitVec 16) : Laws.CommandWord.Statement (.rdre k) :=
  Laws.CommandWord.of_format (fun h => absurd rfl h) (fun _ => rfl)

theorem Laws.CommandWord.rdim (k : BitVec 16) : Laws.CommandWord.Statement (.rdim k) :=
  Laws.CommandWord.of_format (fun h => absurd rfl h) (fun _ => rfl)

theorem Laws.CommandWord.rdbin (k : BitVec 16) : Laws.CommandWord.Statement (.rdbin k) :=
  Laws.CommandWord.of_format (fun h => absurd rfl h) (fun _ => rfl)

end Sys2Proof
end

