-- ==== Sys2Proof/Laws/Run.lean ====
section
/-!
SUPPORT. The laws of a run: the state after no step, and after one step more.
-/

namespace Sys2Proof.Machine

open Sys2Proof

@[simp] theorem State.reaches_zero {s u : State} : s.reaches 0 u ↔ u = s :=
  ⟨fun h => (Host.Outcome.next.inj h).symm, fun h => h ▸ rfl⟩

/-- The state after `k + 1` steps is the state `k` steps after the first. -/
theorem State.reaches_succ {s u : State} {k : Nat} :
    s.reaches (k + 1) u ↔ ∃ t, step s = .next t ∧ t.reaches k u := by
  unfold State.reaches
  cases h : step s with
  | next t =>
    simp only [Host.Core.run, show core.step s = .next t from h]
    exact ⟨fun h => ⟨t, rfl, h⟩, fun ⟨_, ht, h⟩ => Host.Outcome.next.inj ht ▸ h⟩
  | fault r =>
    simp [Host.Core.run, show core.step s = .fault r from h]
  | refused r =>
    simp [Host.Core.run, show core.step s = .refused r from h]

end Sys2Proof.Machine
end

