-- ==== Sys2Proof/Laws/Step.lean ====
section
/-!
SUPPORT. What one step can do, said once: the inversion lemmas of the service of a request, of the
release of reset and of the step, and the equations of the step by the next event.
-/

namespace Sys2Proof.Machine

open Sys2Proof

/-- Everything the execution of a request can do: the decoded command executes, or a word that is no
command is rejected. -/
theorem runRequest_eq_next {r : Request} {s t : State} (h : runRequest r s = .next t) :
    (∃ i, decode r.cw r.data = .ok i ∧ exec i s = .next t)
      ∨ ((∃ e, decode r.cw r.data = .error e) ∧ t = s.reject (opField r.cw) .illegal) := by
  unfold runRequest at h
  split at h
  · exact .inl ⟨_, ‹_›, h⟩
  · exact .inr ⟨⟨_, ‹_›⟩, (Host.Outcome.next.inj h).symm⟩

/-- Everything the service of a port can do: nothing, or run the request the port holds. -/
theorem serve_eq_next {p : Port} {s t : State} (h : serve p s = .next t) :
    t = s ∨ (s.rst = false ∧ ∃ r, s.request p = some r ∧ runRequest r (s.take p) = .next t) := by
  unfold serve at h
  split at h
  · exact .inl (Host.Outcome.next.inj h).symm
  · split at h
    · exact .inr ⟨by simp_all, _, ‹_›, h⟩
    · exact .inl (Host.Outcome.next.inj h).symm

/-- Everything a release of reset can do. -/
theorem State.releaseReset_eq_next {c : Cfg} {s t : State} (h : s.releaseReset c = .next t) :
    (s.rst = false ∧ t = s)
      ∨ (s.rst = true ∧ legalCfg c = true
          ∧ t = { State.resetWith c with schedule := s.schedule, arb := s.arb }) := by
  unfold State.releaseReset at h
  split at h
  · split at h
    · exact .inr ⟨‹_›, ‹_›, (Host.Outcome.next.inj h).symm⟩
    · cases h
  · exact .inl ⟨by simp_all, (Host.Outcome.next.inj h).symm⟩

/-- Everything a step can do. `u` is the state with the schedule or the arbitration counter moved on. -/
theorem step_eq_next {s t : State} (h : step s = .next t) :
    ∃ sched n, let u := { s with schedule := sched, arb := n }
      t = u
      ∨ (∃ p r, u.rst = false ∧ u.request p = some r ∧ runRequest r (u.take p) = .next t)
      ∨ (∃ p r, u.rst = false ∧ u.request p = none ∧ t = u.setRequest p (some r))
      ∨ t = u.assertReset
      ∨ (∃ c, u.rst = true ∧ legalCfg c = true
          ∧ t = { State.resetWith c with schedule := sched, arb := n }) := by
  have served : ∀ {p : Port} {sched : List Event} {n : Nat},
      serve p { s with schedule := sched, arb := n } = .next t →
      t = { s with schedule := sched, arb := n }
        ∨ ∃ p r, s.rst = false ∧ ({ s with schedule := sched, arb := n } : State).request p = some r
            ∧ runRequest r (({ s with schedule := sched, arb := n } : State).take p) = .next t := by
    intro p sched n hs
    rcases serve_eq_next hs with h' | ⟨h1, r, h2, h3⟩
    · exact .inl h'
    · exact .inr ⟨p, r, h1, h2, h3⟩
  unfold step advance at h
  split at h
  · unfold drain at h
    split at h
    · exact ⟨s.schedule, s.arb, .inl (Host.Outcome.next.inj h).symm⟩
    · refine ⟨s.schedule, s.arb + 1, ?_⟩
      rcases served h with h' | h'
      · exact .inl h'
      · exact .inr (.inl h')
  · rename_i e rest _
    cases e with
    | issue p r =>
      simp only [present] at h
      split at h
      · exact ⟨rest, s.arb, .inl (Host.Outcome.next.inj h).symm⟩
      · split at h
        · exact ⟨rest, s.arb, .inr (.inr (.inl
            ⟨p, r, by simp_all, ‹_›, (Host.Outcome.next.inj h).symm⟩))⟩
        · refine ⟨s.schedule, s.arb, ?_⟩
          rcases served (p := p) (sched := s.schedule) (n := s.arb) h with h' | h'
          · exact .inl h'
          · exact .inr (.inl h')
    | serve p =>
      refine ⟨rest, s.arb, ?_⟩
      rcases served (p := p) (sched := rest) (n := s.arb) h with h' | h'
      · exact .inl h'
      · exact .inr (.inl h')
    | assertReset =>
      exact ⟨rest, s.arb, .inr (.inr (.inr (.inl (Host.Outcome.next.inj h).symm)))⟩
    | releaseReset c =>
      rcases State.releaseReset_eq_next h with ⟨-, h'⟩ | ⟨h1, h2, h3⟩
      · exact ⟨rest, s.arb, .inl h'⟩
      · exact ⟨rest, s.arb, .inr (.inr (.inr (.inr ⟨c, h1, h2, h3⟩)))⟩

/-- A step whose next event serves a port. -/
theorem step_serve {s : State} {p : Port} {rest : List Event} (h : s.schedule = .serve p :: rest) :
    step s = serve p { s with schedule := rest } := by
  simp [step, advance, h]

/-- The service of a port that holds a request, with `rst` low. -/
theorem serve_request {p : Port} {s : State} {r : Request} (hr : s.rst = false)
    (h : s.request p = some r) : serve p s = runRequest r (s.take p) := by
  simp [serve, hr, h]

/-- A step that takes a request into service executes it, with the schedule or the arbitration counter
moved on. -/
theorem step_nextServed {s : State} {p : Port} {r : Request} (h : s.nextServed = some (p, r)) :
    ∃ sched n, step s = runRequest r (State.take p { s with schedule := sched, arb := n }) := by
  unfold State.nextServed at h
  split at h
  · cases h
  · have hr : s.rst = false := by simp_all
    split at h
    · obtain ⟨q, hq, h⟩ := Option.bind_eq_some_iff.1 h
      obtain ⟨r', hr', h⟩ := Option.map_eq_some_iff.1 h
      cases h
      refine ⟨s.schedule, s.arb + 1, ?_⟩
      rw [← serve_request (s := { s with schedule := s.schedule, arb := s.arb + 1 }) hr hr']
      simp [step, advance, drain, *]
    · rename_i q r' rest hs
      obtain ⟨r', hr', h⟩ := Option.map_eq_some_iff.1 h
      cases h
      refine ⟨s.schedule, s.arb, ?_⟩
      rw [← serve_request (s := { s with schedule := s.schedule, arb := s.arb }) hr hr']
      have hr'' : ({ s with schedule := rest } : State).request p = some r := hr'
      simp only [step, advance, hs, present, hr'']
      rw [if_neg (by simp [hr])]
    · rename_i q rest hs
      obtain ⟨r', hr', h⟩ := Option.map_eq_some_iff.1 h
      cases h
      refine ⟨rest, s.arb, ?_⟩
      rw [step_serve hs]
      exact serve_request hr hr'
    · cases h
    · cases h

end Sys2Proof.Machine
end

