-- ==== Sys2Proof/WellFormed.lean ====
section
/-!
DEFINITION. Which commands have a legal argument and operand in an instance of window size `n`
(30_encoding.md R72, R73). A command that is not well formed still has an encoding and a meaning:
the rejection the spec names for it.
-/

namespace Sys2Proof

/-- The argument ranges of 30_encoding.md R73 and the finiteness of an `FD` operand (R72). -/
def Instr.wellFormed (n : Nat) : Instr → Bool
  | .rdreg r => decide (r.toNat ≤ 0x0D)
  | .note s => decide (s.toNat ≤ 11)
  | .wave w => decide (w.toNat ≤ 3)
  | .rdsnap i | .rdre i | .rdim i | .rdbin i => decide (i.toNat < n)
  | .setbase v | .push v => v.extractLsb' 23 8 != 0xFF#8
  | .trup | .trdn | .ampup | .ampdn | .clrerr | .tick | .snap | .fft | .mag => true

end Sys2Proof
end

