-- ==== Sys2Proof/Tests/Slice0.lean ====
section
/-!
SUPPORT. The model's own tests: the checks of WellFormed, words written out from the opcode map of
30_encoding.md, the vectors of spec/95_test_vectors.md one step at a time, and a witness for the
hypotheses of every statement of the obligations.
-/

namespace Sys2Proof.Tests

-- one test after another: a test per thread would take the memory of a stack each
set_option Elab.async false

open Sys2Proof Sys2Proof.Machine

/-! ### Small states -/

/-- `CFG_8` of 95_test_vectors.md: `N = 8`. -/
def cfg8 : Cfg := { Cfg.default with log2n := 3 }

/-- `CFG_T` of 95_test_vectors.md: every quantity a dyadic rational. -/
def cfgT : Cfg where
  log2n := 3
  sampleRate := 0x45FA0000
  baseFreqDefault := 0x447A0000
  ampDefault := 0x3F000000
  ampStep := 0x3E800000

/-- An instance of one element. -/
def cfg1 : Cfg := { Cfg.default with log2n := 0 }

/-- After reset, on a port. -/
def fresh (c : Cfg) (p : Port) : State := { State.resetWith c with port := p }

/-- The state of a next outcome. -/
def after : Result → Option State
  | .next s => some s
  | .fault _ | .refused _ => none

/-- What a test compares: a value read from the next state. -/
def reads {α : Type} (r : Result) (f : State → α) : Option α := (after r).map f

/-- A request served on a port of the default instance: the response and `ERR`. -/
def served (p : Port) (cw data : Word32) : Option (List (Bool × Word32) × Word32) :=
  reads (runRequest ⟨cw, data⟩ (fresh Cfg.default p)) fun t =>
    (t.responses.map fun r => (r.ok, r.resp), t.err)

/-! ### WellFormed (30_encoding.md R72, R73): one ill-formed term for each check -/

theorem test_wellFormed_accepts :
    (∀ i ∈ [Instr.rdreg 0x0D, .note 11, .wave 3, .rdsnap 7, .rdre 7, .rdim 7, .rdbin 7,
      .setbase 0x7F7FFFFF, .push 0x80000000, .trup, .trdn, .ampup, .ampdn, .clrerr, .tick, .snap, .fft,
      .mag], i.wellFormed 8 = true) := by decide

theorem test_wellFormed_refuses :
    (∀ i ∈ [Instr.rdreg 0x0E, .note 12, .wave 4, .rdsnap 8, .rdre 8, .rdim 8, .rdbin 8,
      .setbase 0x7F800000, .push 0x7FC00000], i.wellFormed 8 = false) := by decide

/-! ### Decoding: words written out from 30_encoding.md R71 and R76 -/

/-- `op | rsv | arg`, field by field, one command of each family. -/
theorem test_decode_words :
    decode 0b00000001_00000000_0000000000001101 0 = .ok (.rdreg 13)
    ∧ decode 0b00010011_00000000_0000000000000111 0 = .ok (.note 7)
    ∧ decode 0b00010000_00000000_0000000000000000 0x435C0000 = .ok (.setbase 0x435C0000)
    ∧ decode 0b00100000_00000000_0000000000000000 0xDEADBEEF = .ok .tick
    ∧ decode 0b00100001_00000000_0000000000000000 0x3F800000 = .ok (.push 0x3F800000)
    ∧ decode 0b00110000_00000000_0000000000000000 0 = .ok .snap
    ∧ decode 0b00110011_00000000_1111111111111111 0 = .ok (.rdsnap 0xFFFF)
    ∧ decode 0b00110001_00000000_0000000000000000 0 = .ok .fft
    ∧ decode 0b00110101_00000000_0000000000000010 0 = .ok (.rdim 2)
    ∧ decode 0b00110010_00000000_0000000000000000 0 = .ok .mag
    ∧ decode 0b00110110_00000000_0000000010000000 0 = .ok (.rdbin 128) := by decide

/-- The other words of the map. -/
theorem test_decode_words_rest :
    decode 0x11000000 0 = .ok .trup ∧ decode 0x12000000 0 = .ok .trdn ∧ decode 0x14000002 0 = .ok (.wave 2)
    ∧ decode 0x15000000 0 = .ok .ampup ∧ decode 0x16000000 0 = .ok .ampdn ∧ decode 0x17000000 0 = .ok .clrerr
    ∧ decode 0x34000001 0 = .ok (.rdre 1) := by decide

/-- Words that are no command (95_test_vectors.md V-DEC-1). -/
theorem test_decode_refuses :
    decode 0x00000000 0 = .error .unknownOpcode ∧ decode 0xFF000000 0 = .error .unknownOpcode
    ∧ decode 0x02000000 0 = .error .unknownOpcode ∧ decode 0x18000000 0 = .error .unknownOpcode
    ∧ decode 0x22000000 0 = .error .unknownOpcode ∧ decode 0x37000000 0 = .error .unknownOpcode
    ∧ decode 0x20000001 0 = .error .argNonzero ∧ decode 0x20010000 0 = .error .reservedNonzero
    ∧ decode 0x31010000 0 = .error .reservedNonzero ∧ decode 0x10000001 0x43DC0000 = .error .argNonzero
    ∧ decode 0x13010063 0 = .error .reservedNonzero := by decide

/-- The byte decoder takes exactly the eight bytes of a request. -/
theorem test_decodeBytes :
    decodeBytes [0x07, 0x00, 0x00, 0x13, 0, 0, 0, 0] = .ok (.note 7)
    ∧ decodeBytes [0x00, 0x00, 0x00, 0x10, 0x00, 0x00, 0xDC, 0x43] = .ok (.setbase 0x43DC0000)
    ∧ decodeBytes [0x07, 0x00, 0x00, 0x13] = .error .wrongLength := by decide

/-- The table's numbering: the command word in bits 31:0, the operand word above. -/
theorem test_decodeTableWord :
    decodeTableWord 32 0x20000000 = some .tick ∧ decodeTableWord 32 0x13000007 = some (.note 7)
    ∧ decodeTableWord 64 0x43DC000010000000 = some (.setbase 0x43DC0000)
    ∧ decodeTableWord 32 0x43DC000010000000 = some (.setbase 0)
    ∧ decodeTableWord 32 0x20000001 = none := by decide

/-- Every row's word is decoded and executed by the very next step after reset. -/
theorem test_withFetchWord_runs :
    ∀ w ∈ [0x01000000, 0x10000000, 0x11000000, 0x12000000, 0x13000000, 0x14000000, 0x15000000, 0x16000000,
      0x17000000, 0x20000000, 0x21000000, 0x30000000, 0x31000000, 0x32000000, 0x33000000, 0x34000000,
      0x35000000, 0x36000000],
      reads (step (State.reset.withFetchWord 32 w)) (fun t => t.responses.map (·.ok)) = some [true] := by
  decide +kernel

/-! ### Rejections (95_test_vectors.md V-DEC-1, V-DEC-2) -/

theorem test_rejections :
    ∀ x ∈ ([(.S, 0x00000000, 0, false, 1, 0x00000011),
      (.C, 0xFF000000, 0, false, 1, 0x0000FF01),
      (.A, 0x31010000, 0, false, 1, 0x00003121),
      (.C, 0x20000000, 0, false, 2, 0x00002002),
      (.A, 0x17000000, 0, false, 2, 0x00001722),
      (.C, 0x1300000C, 0, false, 3, 0x00001303),
      (.C, 0x14000004, 0, false, 3, 0x00001403),
      (.A, 0x0100FFFF, 0, false, 3, 0x00000123),
      (.A, 0x36000080, 0, false, 4, 0x00003624),
      (.A, 0x3300FFFF, 0, false, 4, 0x00003324),
      (.A, 0x3600007F, 0, true, 0, 0),
      (.C, 0x10000000, 0xFF800000, false, 5, 0x00001005),
      (.S, 0x21000000, 0x7F800001, false, 5, 0x00002115),
      (.S, 0x21000000, 0x7F7FFFFF, true, 0, 0)] :
        List (Port × Word32 × Word32 × Bool × Word32 × Word32)),
      served x.1 x.2.1 x.2.2.1 = some ([(x.2.2.2.1, x.2.2.2.2.1)], x.2.2.2.2.2) := by decide +kernel

theorem test_priority :
    ∀ x ∈ ([(.S, 0x13010063, 0, false, 1, 0x00001311),
      (.S, 0x13000063, 0, false, 2, 0x00001312),
      (.C, 0x13000063, 0, false, 3, 0x00001303),
      (.A, 0x10000000, 0x7FC00000, false, 2, 0x00001022),
      (.A, 0x21000000, 0x7FC00000, false, 2, 0x00002122),
      (.C, 0x10000000, 0x7FC00000, false, 5, 0x00001005)] :
        List (Port × Word32 × Word32 × Bool × Word32 × Word32)),
      served x.1 x.2.1 x.2.2.1 = some ([(x.2.2.2.1, x.2.2.2.2.1)], x.2.2.2.2.2) := by decide +kernel

/-! ### Register access (V-REG-1) -/

theorem test_rdreg :
    (List.range 14).map (fun r => (served .A (0x01000000 + BitVec.ofNat 32 r) 0).map fun x => x.1.map (·.2))
      = [0x4D500007, 0x00000007, 0x00000010, 0, 0, 0, 0x43DC0000, 0x43DC0000, 0x3E4CCCCD, 0x472C4400, 0,
          0x3D4CCCCD, 0, 0].map fun v => some [v] := by decide +kernel

/-! ### Control surface (V-CTL-1 to V-CTL-6) -/

theorem test_note :
    (List.range 12).map (fun n =>
        reads (execNote (BitVec.ofNat 16 n) (fresh Cfg.default .C)) fun t => (t.baseFreq, t.targetFreq))
      = [0x43DC0000, 0x43E914F7, 0x43F6F110, 0x4402D012, 0x440A9761, 0x4412D517, 0x441B9041, 0x4424D054,
          0x442E9D37, 0x4438FF49, 0x4443FF6A, 0x444FA700].map fun v => some (0x43DC0000, v) := by
  decide +kernel

theorem test_setbase :
    reads (execSetbase 0x435C0000 { fresh Cfg.default .C with semitone := 7 })
        (fun t => (t.baseFreq, t.semitone, t.targetFreq)) = some (0x435C0000, 7, 0x43A4D054)
    ∧ reads (execSetbase 0x80000000 (fresh Cfg.default .C))
        (fun t => (t.baseFreq, t.targetFreq, t.err)) = some (0x80000000, 0x80000000, 0) := by decide +kernel

theorem test_trup :
    reads (execTrup { fresh Cfg.default .C with baseFreq := 0x435C0000, semitone := 7 })
        (fun t => (t.baseFreq, t.targetFreq)) = some (0x436914F7, 0x43AE9D38) := by decide +kernel

theorem test_trdn :
    reads (execTrdn (fresh Cfg.default .C)) (fun t => (t.baseFreq, t.targetFreq))
      = some (0x43CFA700, 0x43CFA700) := by decide +kernel

theorem test_wave :
    reads (execWave 3 { fresh Cfg.default .C with phase := 0x3F000000, triDir := false })
        (fun t => (t.wave, t.phase, t.triDir)) = some (.sawtooth, 0x3F000000, false) := by decide +kernel

theorem test_ampup :
    reads (execAmpup { fresh Cfg.default .C with amplitude := 0x3E99999A }) (·.amplitude)
      = some 0x3EB33334 := by decide +kernel

theorem test_ampdn :
    reads (execAmpdn { fresh Cfg.default .C with amplitude := 0x3D4CCCCF }) (·.amplitude) = some 0x32000000
    ∧ reads (execAmpdn { fresh Cfg.default .C with amplitude := 0x32000000 })
        (fun t => (t.amplitude, t.err)) = some (0, 0) := by decide +kernel

theorem test_clrerr :
    reads (execClrerr { fresh Cfg.default .C with err := 0x00003624 }) (fun t => (t.err, t.errv))
      = some (0, false) := by decide +kernel

/-! ### The oscillator (V-OSC-5, V-OSC-7, V-OSC-9, V-OSC-3): sample, phase, direction -/

/-- A `TICK` of a `CFG_T` instance: the response, the phase and the direction flag after it. -/
def ticked (w : Wave) (phase : F32) (up : Bool) : Option (List Word32 × F32 × Bool) :=
  reads (execTick { fresh cfgT .S with wave := w, phase := phase, triDir := up }) fun t =>
    (t.responses.map (·.resp), t.phase, t.triDir)

theorem test_tick_square :
    ticked .square 0x3F000000 true = some ([0xBF000000], 0x3F400000, true)
    ∧ ticked .square 0x3F400000 true = some ([0xBF000000], 0xBF800000, true) := by decide +kernel

theorem test_tick_triangle :
    ticked .triangle 0x3F600000 true = some ([0x3EE00000], 0x3F800000, true)
    ∧ ticked .triangle 0x3F800000 true = some ([0x3F000000], 0x3F600000, false)
    ∧ ticked .triangle 0xBF800000 false = some ([0xBF000000], 0xBF600000, true) := by decide +kernel

theorem test_tick_sawtooth :
    ticked .sawtooth 0x3F400000 true = some ([0x3EC00000], 0xC0000000, true)
    ∧ ticked .sawtooth 0xC0000000 true = some ([0xBF800000], 0xBFE00000, true) := by decide +kernel

/-- Sine with the correctly rounded sine of `pi/4` and of `0`. -/
theorem test_tick_sine :
    (Num.f32With (fun _ => 0x3F3504F3) (fun _ => 0)).sineWave 0x3E000000 0x3E000000 0x3F000000
      = (0x3EB504F3, 0x3E800000)
    ∧ (Num.f32With (fun _ => 0xBF3504EF) (fun _ => 0)).sineWave 0x3F600000 0x3E000000 0x3F000000
      = (0xBEB504EF, 0) := by decide +kernel

/-- What `TICK` writes besides: the ring, the stream. -/
theorem test_tick_writes :
    reads (execTick { fresh cfgT .S with wave := .square, wr := 7, fill := 7 })
        (fun t => (t.win, t.wr, t.fill, t.sOut, t.warm))
      = some ([(7, 0x3F000000)], 0, 8, [0x3F000000], true) := by decide +kernel

/-! ### The window (V-WIN-1, V-WIN-2, V-WIN-5) -/

/-- The window of V-WIN-2: pushes of 1 to 10 into `N = 8`. -/
def win2 : State :=
  { fresh cfg8 .A with
    win := [(0, 0x41100000), (1, 0x41200000), (2, 0x40400000), (3, 0x40800000), (4, 0x40A00000),
      (5, 0x40C00000), (6, 0x40E00000), (7, 0x41000000)]
    wr := 2
    fill := 8 }

theorem test_push :
    reads (execPush 0x3F800000 (fresh cfg8 .S)) (fun t => (t.win, t.wr, t.fill, t.sOut, t.status))
      = some ([(0, 0x3F800000)], 1, 1, [], 0x00000010)
    ∧ reads (execPush 0xC0E00000 { fresh cfg1 .S with win := [(0, 0x40A00000)], fill := 1 })
        (fun t => (t.win, t.wr, t.fill)) = some ([(0, 0xC0E00000)], 0, 1) := by decide +kernel

theorem test_snap :
    reads (execSnap win2) (fun t => (t.snap.map (·.2), t.status))
      = some ([0x40400000, 0x40800000, 0x40A00000, 0x40C00000, 0x40E00000, 0x41000000, 0x41100000,
          0x41200000], 0x00000013) := by decide +kernel

theorem test_rdsnap :
    reads (execRdsnap 7 { fresh cfg8 .A with snap := [(7, 0x41200000)] }) (·.responses)
      = some [⟨.A, true, 0x41200000⟩]
    ∧ reads (execRdsnap 8 (fresh cfg8 .A)) (fun t => (t.responses, t.err))
      = some ([⟨.A, false, 4⟩], 0x00003324) := by decide +kernel

/-! ### Transform and magnitude (V-FFT-1, V-FFT-2, V-FFT-8, V-MAG-1, V-MAG-2) -/

/-- Correctly rounded sine and cosine at the four twiddle angles of V-FFT-0. -/
def tableTrig : Num F32 :=
  Num.f32With
    (fun a => if a = 0 then 0 else if a = 0x3FC90FDB then 0x3F800000 else 0x3F3504F3)
    (fun a =>
      if a = 0 then 0x3F800000
      else if a = 0x3F490FDB then 0x3F3504F3
      else if a = 0x3FC90FDB then 0xB33BBD2E
      else 0xBF3504F3)

theorem test_twiddles :
    (List.range 4).map (tableTrig.twiddle 8)
      = [(0x3F800000, 0x80000000), (0x3F3504F3, 0xBF3504F3), (0xB33BBD2E, 0xBF800000),
          (0xBF3504F3, 0xBF3504F3)] := by decide +kernel

/-- V-FFT-1: the window of the source's scenario. -/
theorem test_fft :
    (let t := fftWith tableTrig { fresh cfg8 .A with
        snap := [(0, 0x3F800000), (1, 0x3F800000), (2, 0x3F800000), (3, 0x3F800000)] }
     ((List.range 8).map t.spectrum, t.status))
      = ([(0x40800000, 0x00000000), (0x3F7FFFFE, 0xC01A8279), (0x00000000, 0x00000000),
          (0x3F800000, 0xBED413CC), (0x00000000, 0x00000000), (0x3F800000, 0x3ED413C8),
          (0x00000000, 0x00000000), (0x3F800000, 0x401A827A)], 0x00000014) := by decide +kernel

theorem test_mag :
    reads (execMag { fresh cfg8 .A with
        xre := [(0, 0x40800000), (1, 0x3F7FFFFE), (7, 0x3F800000)]
        xim := [(1, 0xC01A8279), (7, 0x401A827A)]
        specv := true }) (fun t => (t.freq, t.magv))
      = some ([(0, 0x40800000), (1, 0x40273D74), (7, 0x40273D75)], true) := by decide +kernel

theorem test_cabs :
    [(0x40400000, 0x40800000), (0xC0400000, 0xC0800000), (0x80000000, 0x80000000), (0x5F000000, 0),
        (0x5F800000, 0), (0x0DA24260, 0)].map Num.f32.cabs
      = [0x40A00000, 0x40A00000, 0, 0x5F000000, 0x7F800000, 0] := by decide +kernel

theorem test_rdre :
    reads (execRdre 1 { fresh cfg8 .A with xre := [(1, 0x3F7FFFFE)] }) (·.responses)
      = some [⟨.A, true, 0x3F7FFFFE⟩]
    ∧ reads (execRdre 8 (fresh cfg8 .A)) (·.err) = some 0x00003424 := by decide +kernel

theorem test_rdim :
    reads (execRdim 1 { fresh cfg8 .A with xim := [(1, 0xC01A8279)] }) (·.responses)
      = some [⟨.A, true, 0xC01A8279⟩] := by decide +kernel

theorem test_rdbin :
    reads (execRdbin 7 { fresh cfg8 .A with freq := [(7, 0x40273D75)] }) (·.responses)
      = some [⟨.A, true, 0x40273D75⟩] := by decide +kernel

/-! ### The ports and the reset input -/

theorem test_reset_input :
    reads (step { fresh cfg8 .C with
        schedule := [.assertReset], reqS := some ⟨0x20000000, 0⟩ }) (fun t => (t.rst, t.reqS, t.responses))
      = some (true, none, [])
    ∧ reads (step { fresh cfg8 .C with schedule := [.releaseReset cfgT], rst := true, err := 0x00003624 })
        (fun t => (t.rst, t.baseFreq, t.err)) = some (false, 0x447A0000, 0) := by decide +kernel

theorem test_issue_then_serve :
    reads (step { fresh cfg8 .C with schedule := [.issue .S ⟨0x21000000, 0x3F800000⟩, .serve .S] })
        (fun t => (t.reqS, t.schedule, t.responses)) = some (some ⟨0x21000000, 0x3F800000⟩, [.serve .S], [])
    ∧ reads (step { fresh cfg8 .C with schedule := [.serve .S], reqS := some ⟨0x21000000, 0x3F800000⟩ })
        (fun t => (t.reqS, t.schedule, t.responses)) = some (none, [], [⟨.S, true, 0⟩]) := by decide +kernel

/-- The pseudo commands as events (30_encoding.md R91, R166). -/
theorem test_program :
    (program .S (frame 2)).length = 4 ∧ analyze = [.snap, .fft, .mag]
    ∧ program .S (capture [0x3F800000]) = [.issue .S ⟨0x21000000, 0x3F800000⟩, .serve .S] := by decide

/-- 70_reset_and_hazards.md R233: what the host never does. -/
theorem test_hostKeeps :
    hostKeeps (fun _ => false) (program .S [.tick, .tick] ++ [.issue .A ⟨0x30000000, 0⟩]) = true
    ∧ hostKeeps (fun _ => false) [.issue .S ⟨0x20000000, 0⟩, .serve .A, .issue .S ⟨0x20000000, 0⟩] = false
    ∧ hostKeeps (fun p => p == .C) [.issue .C ⟨0x11000000, 0⟩] = false
    ∧ hostKeeps (fun _ => false) [.serve .S, .assertReset] = false
    ∧ hostKeeps (fun _ => false) [.releaseReset cfg8] = false := by decide

/-- A sawtooth at -2, in its own range, and a request to select the triangle (70_reset_and_hazards.md
R242). -/
def sawToTriangle : State :=
  { fresh cfg8 .C with
    wave := .sawtooth, phase := 0xC0000000, reqC := some ⟨0x14000002, 0⟩, schedule := [.serve .C] }

/-- `P_WAVE` holds before the switch and not after it, the phase being below the triangle's range. -/
theorem test_premiseWave : sawToTriangle.premiseWave 0 ∧ ¬ sawToTriangle.premiseWave 1 := by
  refine ⟨⟨0, .sawtooth, Nat.le_refl 0, ⟨_, rfl, by decide +kernel, by decide +kernel⟩, fun k _ hk => ?_⟩, ?_⟩
  · obtain rfl : k = 0 := by omega
    exact ⟨_, rfl, rfl⟩
  · rintro ⟨m, w, hm, ⟨u, hu, hr⟩, h⟩
    obtain ⟨v, hv, rfl⟩ := h 1 hm (Nat.le_refl 1)
    obtain rfl := Host.Outcome.next.inj hv
    rcases Nat.le_one_iff_eq_zero_or_eq_one.1 hm with rfl | rfl
    · obtain ⟨v, hv, hw⟩ := h 0 (Nat.le_refl 0) (by omega)
      obtain rfl := Host.Outcome.next.inj hv
      exact absurd hw (by decide)
    · obtain rfl := Host.Outcome.next.inj hu
      exact absurd hr.1 (by decide +kernel)

/-- A `TICK` that is served next. -/
def tickNext : State :=
  { fresh cfg8 .C with reqS := some ⟨0x20000000, 0⟩, schedule := [.serve .S] }

/-- `P_DF` holds where the `TICK` of the run meets a target frequency in range, and fails where it meets a
zero one. -/
theorem test_premiseDf :
    tickNext.premiseDf 1 ∧ ¬ State.premiseDf { tickNext with targetFreq := 0 } 1 := by
  refine ⟨fun k u hk hu _ => ?_, fun h => ?_⟩
  · obtain rfl := Nat.lt_one_iff.1 hk
    obtain rfl := State.reaches_zero.1 hu
    exact ⟨by decide +kernel, by decide +kernel⟩
  · exact absurd (h 0 _ (by decide) (State.reaches_zero.2 rfl)
      ⟨⟨0x20000000, 0⟩, by decide +kernel, by decide⟩).1 (by decide +kernel)

/-- The largest base frequency, and a `TRUP` that is served next. -/
def loud : State :=
  { fresh cfg8 .C with
    baseFreq := 0x7F7FFFFF, reqC := some ⟨0x11000000, 0⟩, schedule := [.serve .C] }

/-- `P_FIN` holds before the overflow and fails in the run that comes to hold an infinity. -/
theorem test_premiseFin : loud.premiseFin 0 ∧ ¬ loud.premiseFin 1 := by
  refine ⟨fun k u hk hu => ?_, fun h => ?_⟩
  · obtain rfl := Nat.le_zero.1 hk
    obtain rfl := State.reaches_zero.1 hu
    exact ⟨by decide +kernel, fun _ => show F32.isFinite 0 = true by decide⟩
  · have hb : reads (step loud) (·.baseFreq.isFinite) = some false := by decide +kernel
    cases hs : step loud with
    | next t =>
      rw [hs] at hb
      have hf := (h 1 t (by decide) (State.reaches_succ.2 ⟨t, hs, State.reaches_zero.2 rfl⟩)).1
      simp only [List.all_cons, Bool.and_eq_true] at hf
      exact absurd (hf.2.2.2.2.1.symm.trans (Option.some.inj hb)) (by decide)
    | fault r => rw [hs] at hb; cases hb
    | refused r => rw [hs] at hb; cases hb

/-- The two instances of the source's defaults are legal (00_scope.md R7), and the reference instance with
`SAMPLE_RATE = 0` is not. -/
theorem test_parametersLegal :
    Parameters.hardware.legal = true ∧ Parameters.reference.legal = true
    ∧ Parameters.legal ⟨.real, { realDefaults with sampleRate := 0 }⟩ = false := by
  refine ⟨by decide +kernel, ?_, ?_⟩ <;>
    simp [Parameters.legal, CfgOf.legal, Parameters.reference, realDefaults, numerics, Num.gt, Num.ge, Num.real]

/-- No instance is built from an illegal record, in either numerics (00_scope.md R8): `LOG2N = 16`,
`SAMPLE_RATE = 0`. -/
theorem test_illegalRecordRefused :
    Parameters.release ⟨.f32, { cfg8 with log2n := 16 }⟩ = .refused .illegalCfg
    ∧ Parameters.release ⟨.real, { realDefaults with sampleRate := 0 }⟩ = .refused .illegalCfg :=
  ⟨Block.release_illegal (by decide +kernel), Block.release_illegal test_parametersLegal.2.2⟩

/-- 40_oscillator_bank.md R100's example in `NUM_REAL`: the first `TICK` after reset emits 0 and leaves
`PHASE = 440/44100`. -/
theorem test_referenceTick :
    ∃ b, Block.release Num.real realDefaults = .next b ∧
      let u := b.request Num.real 0x20000000 0 .S
      u.1.sOut = [0] ∧ u.1.phase = 440 / 44100 ∧ u.2.ok = true ∧ u.1.wr = 1 := by
  have hl : CfgOf.legal Num.real realDefaults = true := test_parametersLegal.2.1
  have h : decode 0x20000000 0 = .ok .tick := by decide
  refine ⟨Block.reset Num.real realDefaults hl, Block.release_legal hl, ?_⟩
  simp only [Block.request, h, Block.exec, Block.accept_ok (show checked .tick .S noOperand = .ok () from rfl)]
  norm_num [Block.tick, Block.push, Block.reset, realDefaults, Num.advance, Num.sineWave, Num.phaseStep,
    Num.ge, Num.real]

/-- An illegal `CFG` is refused (00_scope.md R7, R8): each bound by a value beyond it. -/
theorem test_legalCfg :
    legalCfg cfg8 = true ∧ legalCfg { cfg8 with log2n := 15 } = true
    ∧ legalCfg { cfg8 with log2n := 16 } = false ∧ legalCfg { cfg8 with sampleRate := 0 } = false
    ∧ legalCfg { cfg8 with sampleRate := 0x7F800000 } = false
    ∧ legalCfg { cfg8 with baseFreqDefault := 0xC3DC0000 } = false
    ∧ legalCfg { cfg8 with ampDefault := 0x80000000 } = true
    ∧ legalCfg { cfg8 with ampDefault := 0xBF800000 } = false
    ∧ legalCfg { cfg8 with ampStep := 0 } = false := by decide +kernel

/-! ### Witnesses: for every statement with hypotheses, states and operands that meet them together -/

/-- A warm instance of one element after a push, on a port. -/
def warm1 (p : Port) : State := { fresh cfg1 p with win := [(0, 0x3F800000)], fill := 1 }

/-- The invariant holds in a state that is no reset state. -/
theorem witness_Inv : (warm1 .S).Inv where
  ring := ⟨by decide, by decide, fun h => absurd h (by decide)⟩
  memory := by
    intro sp
    cases sp <;> decide
  err := by
    unfold State.errOk
    decide +kernel
  tuned := rfl
  flags := by
    refine ⟨fun _ _ => rfl, fun h => ?_, fun h => ?_⟩
    · cases h
    · cases h
  levels := by
    unfold State.levelsOk
    decide +kernel
  ports := by
    refine ⟨fun h => ?_, fun h => ?_⟩
    · cases h
    · exact absurd (show errCode 0 = 0 by decide) h

theorem witness_EncodeOfDecode :
    decode 0x1300FFFF 0xDEADBEEF = .ok (.note 0xFFFF)
    ∧ decode 0x21000000 0xDEADBEEF = .ok (.push 0xDEADBEEF) ∧ (Instr.push 0xDEADBEEF).format = .fd := by
  decide

/-- Each way a word is illegal, at the edge of a legal one. -/
theorem witness_IllegalRequestsAreRejected :
    illegalWord 0x18000000 ∧ illegalWord 0x13010000 ∧ illegalWord 0x21000001
    ∧ errCode (fresh cfg8 .S).err = 0 := by
  decide

theorem witness_SerialisedWordsAreLittleEndian :
    (3 : Nat) < 4 ∧ wordBytes 0x13000007 = [0x07, 0x00, 0x00, 0x13] := by decide

/-- A port with a command, a port with a word that is none, and a placed table word. -/
theorem witness_StepExecutesTheDecodedCommand :
    (∃ s : State, s.schedule = .serve .S :: [] ∧ s.rst = false ∧ s.request .S = some ⟨0x20000000, 0⟩
      ∧ decode 0x20000000 0 = .ok .tick)
    ∧ (∃ s : State, s.schedule = .serve .C :: [.serve .S] ∧ s.rst = false
      ∧ s.request .C = some ⟨0x18000000, 0⟩ ∧ decode 0x18000000 0 = .error .unknownOpcode)
    ∧ decodeTableWord 32 0x30000000 = some .snap :=
  ⟨⟨{ fresh cfg8 .C with schedule := [.serve .S], reqS := some ⟨0x20000000, 0⟩ }, rfl, rfl, rfl, rfl⟩,
    ⟨{ fresh cfg8 .C with schedule := [.serve .C, .serve .S], reqC := some ⟨0x18000000, 0⟩ }, rfl, rfl,
      rfl, rfl⟩, by decide⟩

/-- A rejection that finds an error, a `CLRERR` that clears one, a rejection that finds none. -/
theorem witness_FirstErrorIsKept :
    (∃ t, runRequest ⟨0x13000003, 0⟩ { fresh cfg8 .S with err := 0x00003624 } = .next t)
    ∧ (∃ t, runRequest ⟨0x17000000, 0⟩ { fresh cfg8 .C with err := 0x00003624 } = .next t)
    ∧ errCode 0x00003624 ≠ 0 ∧ errCode (fresh cfg8 .A).err = 0 ∧ (fresh cfg8 .C).port = .C :=
  ⟨⟨_, rfl⟩, ⟨_, rfl⟩, by decide, by decide, rfl⟩

theorem witness_WrongPortIsRejected :
    ¬ rightPort (Instr.note 99).opcode.toNat (fresh cfg8 .S).port
    ∧ ¬ rightPort Instr.tick.opcode.toNat (fresh cfg8 .A).port
    ∧ ¬ rightPort Instr.snap.opcode.toNat (fresh cfg8 .C).port ∧ (fresh cfg8 .S).port = .S := by
  decide

/-- The first argument beyond each range. -/
theorem witness_ArgumentOutOfRangeIsRejected :
    0x000D < (0x000E#16).toNat ∧ 11 < (12#16).toNat ∧ 3 < (4#16).toNat ∧ (fresh cfg8 .C).port = .C := by
  decide

theorem witness_IndexOutOfRangeIsRejected :
    (fresh cfg8 .A).port = .A ∧ (fresh cfg8 .A).size ≤ (8#16).toNat
    ∧ (fresh { cfg8 with log2n := 15 } .A).log2n = 15 ∧ (fresh cfg1 .A).log2n = 0
    ∧ (fresh cfg8 .A).log2n = 3 := by decide

/-- An infinity and a NaN, at the edge of the largest finite datum. -/
theorem witness_NonfiniteOperandIsRejected :
    (fresh cfg8 .C).port = .C ∧ (fresh cfg8 .S).port = .S ∧ (0x7F800000#32).extractLsb' 23 8 = 0xFF#8
    ∧ (0xFF800001#32).extractLsb' 23 8 = 0xFF#8 ∧ (0x7F7FFFFF#32).extractLsb' 23 8 ≠ 0xFF#8 := by decide

/-- Each failing check, and none. -/
theorem witness_DecodeProcedure :
    firstFailing 0x13010063 0 .S 8 = some .illegal ∧ firstFailing 0x13000063 0 .S 8 = some .port
    ∧ firstFailing 0x1300000C 0 .C 8 = some .arg ∧ firstFailing 0x36000008 0 .A 8 = some .index
    ∧ firstFailing 0x10000000 0x7FC00000 .C 8 = some .nonfinite
    ∧ firstFailing 0x1300000B 0 .C 8 = none ∧ firstFailing 0x36000007 0 .A 8 = none
    ∧ firstFailing 0x21000000 0x7F7FFFFF .S 8 = none ∧ (fresh cfg8 .S).wr < (fresh cfg8 .S).size := by
  decide +kernel

/-- The first number that is no register, and a word of `RDREG` with a reserved bit. -/
theorem witness_RdregRespondsThePayload :
    0x000D < (0x000E#16).toNat ∧ opField 0x01800000 = 0x01 ∧ (0x01800000#32).extractLsb' 16 8 ≠ 0 := by
  decide

/-- A finite operand, a wrong port, a word with a bit too many, an operand that is not finite. -/
theorem witness_SetbaseSetsTheBaseAndRetunes :
    (fresh cfg8 .C).port = .C ∧ F32.isFinite 0x435C0000 = true ∧ (fresh cfg8 .A).port ≠ .C
    ∧ opField 0x10000001 = 0x10 ∧ (0x10000001#32).extractLsb' 0 24 ≠ 0
    ∧ F32.isFinite 0x7F800000 = false := by decide

theorem witness_TrupRaisesTheBaseAndRetunes :
    (fresh cfg8 .C).port = .C ∧ (fresh cfg8 .S).port ≠ .C
    ∧ opField 0x11800000 = 0x11 ∧ (0x11800000#32).extractLsb' 0 24 ≠ 0 := by decide

theorem witness_TrdnLowersTheBaseAndRetunes :
    (fresh cfg8 .C).port = .C ∧ (fresh cfg8 .A).port ≠ .C ∧ opField 0x12000001 = 0x12
    ∧ (0x12000001#32).extractLsb' 0 24 ≠ 0 ∧ F32.lt 0 0x00000001 = true := by decide

/-- The largest offset, and the first beyond it. -/
theorem witness_NoteSetsTheOffsetAndRetunes :
    (11#16).toNat < 12 ∧ 11 < (12#16).toNat ∧ (fresh cfg8 .C).port = .C ∧ (fresh cfg8 .S).port ≠ .C
    ∧ opField 0x13010000 = 0x13 ∧ (0x13010000#32).extractLsb' 16 8 ≠ 0 := by decide

theorem witness_WaveSelectsTheWaveform :
    (fresh cfg8 .C).port = .C ∧ (fresh cfg8 .S).port ≠ .C ∧ 3 < (4#16).toNat
    ∧ opField 0x14010003 = 0x14 ∧ (0x14010003#32).extractLsb' 16 8 ≠ 0 := by decide

theorem witness_AmpupAddsTheStep :
    (fresh cfg8 .C).port = .C ∧ (fresh cfg8 .S).port ≠ .C
    ∧ opField 0x15000001 = 0x15 ∧ (0x15000001#32).extractLsb' 0 24 ≠ 0 := by decide

theorem witness_AmpdnSubtractsTheStepAndClamps :
    (fresh cfg8 .C).port = .C ∧ (fresh cfg8 .S).port ≠ .C
    ∧ opField 0x16000001 = 0x16 ∧ (0x16000001#32).extractLsb' 0 24 ≠ 0
    ∧ F32.isFinite 0x3D4CCCCD = true ∧ F32.lt 0 0x3D4CCCCD = true ∧ F32.le 0 0x80000000 = true
    ∧ legalCfg { cfg8 with ampDefault := 0x80000000 } = true
    ∧ F32.le 0 (fresh cfg8 .C).amplitude = true ∧ (fresh cfg8 .C).ampStep.isFinite = true
    ∧ F32.lt 0 (fresh cfg8 .C).ampStep = true
    ∧ ∃ t, runRequest ⟨0x15000000, 0⟩ (fresh cfg8 .C) = .next t :=
  ⟨rfl, by decide, by decide, by decide, by decide, by decide, by decide, by decide +kernel, by decide,
    by decide, by decide, _, rfl⟩

theorem witness_ClrerrClearsErr :
    (fresh cfg8 .C).port = .C ∧ (fresh cfg8 .A).port ≠ .C
    ∧ opField 0x17000001 = 0x17 ∧ (0x17000001#32).extractLsb' 0 24 ≠ 0
    ∧ ∃ t, exec .clrerr { fresh cfg8 .C with err := 0x00003624 } = .next t :=
  ⟨rfl, by decide, by decide, by decide, _, rfl⟩

/-- The last place of the ring. -/
theorem witness_TickEmitsAndAdvances :
    (∃ s : State, s.port = .S ∧ s.wr < s.size ∧ s.wr + 1 = s.size)
    ∧ (fresh cfg8 .C).port ≠ .S ∧ opField 0x20000001 = 0x20 ∧ (0x20000001#32).extractLsb' 0 24 ≠ 0 :=
  ⟨⟨{ fresh cfg8 .S with wr := 7 }, rfl, by decide, by decide⟩, by decide, by decide, by decide⟩

/-- Bounds of the phase ranges and of `df`. -/
theorem witness_WaveformsInExactArithmetic :
    (0 : ℝ) ≤ 0 ∧ (0 : ℝ) < 1 ∧ (1 : ℝ) ≤ 1 ∧ (-1 : ℝ) ≤ -1 ∧ (-1 : ℝ) ≤ 1 ∧ (-2 : ℝ) ≤ -2 ∧ (-2 : ℝ) < 1
    ∧ 0 < (1 : Nat) ∧ (0 : ℝ) ≤ 1 / 2 ∧ (1 / 2 : ℝ) < 1 := by norm_num

theorem witness_SharedPhaseStaysBounded :
    (∀ e ∈ [(Wave.sawtooth, (1 : ℝ)), (Wave.triangle, 1 / 2)], 0 < e.2 ∧ e.2 ≤ 1)
    ∧ (-2 : ℝ) ≤ -2 ∧ (-2 : ℝ) ≤ 1 ∧ Num.real.ownRange .sine 0 ∧ Num.real.ownRange .square (-1)
    ∧ Num.real.ownRange .triangle 1 ∧ Num.real.ownRange .sawtooth (-2) := by
  refine ⟨?_, ?_⟩
  · intro e he
    rcases List.mem_cons.1 he with rfl | he
    · norm_num
    · rw [List.mem_singleton.1 he]
      norm_num
  · simp only [Num.ownRange, Num.real]
    norm_num

theorem witness_PushStoresTheSample :
    (fresh cfg1 .S).port = .S ∧ F32.isFinite 0x80000000 = true ∧ (fresh cfg1 .S).wr < (fresh cfg1 .S).size
    ∧ (fresh cfg1 .A).port ≠ .S ∧ opField 0x21000001 = 0x21 ∧ (0x21000001#32).extractLsb' 0 24 ≠ 0
    ∧ F32.isFinite 0x7F800001 = false ∧ (fresh cfg1 .S).log2n = 0 := by decide

theorem witness_SnapCopiesTheRingInTimeOrder :
    win2.port = .A ∧ 7 < win2.size ∧ (fresh cfg8 .C).port ≠ .A
    ∧ opField 0x30000001 = 0x30 ∧ (0x30000001#32).extractLsb' 0 24 ≠ 0 := by decide

/-- Two pushes with a control command between them, before the window is warm, and a full window of one. -/
theorem witness_RingHoldsTheMostRecentSamples :
    (legalCfg cfg8 = true ∧ ∃ t, execAll [(.S, .push 0x3F800000), (.C, .trup), (.S, .push 0x40000000)]
      (State.resetWith cfg8) = .next t)
    ∧ legalCfg cfg1 = true ∧ ∃ t, execAll [(.S, .push 0x3F800000), (.S, .push 0x40000000)]
      (State.resetWith cfg1) = .next t ∧ 0 < min 2 t.size :=
  ⟨⟨by decide +kernel, _, rfl⟩, by decide +kernel, _, rfl, by decide⟩

/-- A window that lacks elements, with an index on each side of the edge, and one that lacks none. -/
theorem witness_SnapshotIsTheZeroPaddedRecentPast :
    (∃ t u, execAll [(.S, .push 0x3F800000)] (State.resetWith cfg8) = .next t
      ∧ exec .snap { t with port := .A } = .next u ∧ u.size = 8 ∧ 6 + 1 < u.size ∧ u.size ≤ 7 + 1)
    ∧ ∃ t u, execAll [(.S, .push 0x3F800000)] (State.resetWith cfg1) = .next t
      ∧ exec .snap { t with port := .A } = .next u ∧ u.size ≤ 0 + 1 :=
  ⟨⟨_, _, rfl, rfl, by decide, by decide, by decide⟩, _, _, rfl, rfl, by decide⟩

theorem witness_ElementReadsRespondTheElement :
    win2.port = .A ∧ (7#16).toNat < win2.size ∧ win2.size ≤ (8#16).toNat ∧ (fresh cfg8 .S).port ≠ .A
    ∧ opField 0x33010000 = 0x33 ∧ (0x33010000#32).extractLsb' 16 8 ≠ 0 := by decide

theorem witness_FftTransformsTheSnapshot :
    win2.port = .A ∧ 7 < win2.size ∧ (fresh cfg8 .S).port ≠ .A
    ∧ opField 0x31000001 = 0x31 ∧ (0x31000001#32).extractLsb' 0 24 ≠ 0 ∧ (3 : Nat) < 2 ^ 2 := by decide

theorem witness_MagComputesTheModuli :
    win2.port = .A ∧ 7 < win2.size ∧ (fresh cfg8 .S).port ≠ .A
    ∧ opField 0x32000001 = 0x32 ∧ (0x32000001#32).extractLsb' 0 24 ≠ 0
    ∧ F32.isNaN 0x7FC00000 = true := by decide

theorem witness_FftEqualsTheReferenceDft : (7 : Nat) < 2 ^ 3 ∧ (0 : Nat) < 2 ^ 0 := by decide

/-- Three sequences that are not zero, the third the combination of the others. -/
theorem witness_FftIsLinear :
    ∀ t : Nat, toComplex (5, 3) = (2 : ℂ) * toComplex ((fun _ => (1, 0)) t)
      + Complex.I * toComplex ((fun _ => (3, -3)) t) := by
  intro _
  apply Complex.ext
  · simp [toComplex]; norm_num
  · simp [toComplex]

theorem witness_SpectrumOfARealWindowIsMirrored : 1 ≤ 7 ∧ (7 : Nat) < 2 ^ 3 := by decide

theorem witness_PureToneHasTwoBins : 0 < 3 ∧ 2 * 3 < 2 ^ 3 ∧ (7 : Nat) < 2 ^ 3 := by decide

/-- A pass with a control command and a push between its three steps. -/
theorem witness_AnalysisPassIsOfOneInstant :
    ∃ t1 t2 t3 t4 t5 : State,
      (∀ c ∈ [(Port.C, Instr.note 7), (.S, .push 0x3F800000)], c.1 ≠ .A)
      ∧ (∀ c ∈ [(Port.S, Instr.push 0x40000000)], c.1 ≠ .A)
      ∧ exec .snap { win2 with port := .A } = .next t1
      ∧ execAll [(.C, .note 7), (.S, .push 0x3F800000)] t1 = .next t2
      ∧ exec .fft { t2 with port := .A } = .next t3
      ∧ execAll [(.S, .push 0x40000000)] t3 = .next t4
      ∧ exec .mag { t4 with port := .A } = .next t5 ∧ 7 < win2.size :=
  ⟨_, _, _, _, _, by decide, by decide, rfl, rfl, rfl, rfl, rfl, by decide⟩

theorem witness_ControlCommandsFrame :
    (∃ t, exec (.setbase 0x435C0000) (fresh cfg8 .C) = .next t) ∧ (∃ t, exec .trup (fresh cfg8 .C) = .next t)
    ∧ (∃ t, exec .trdn (fresh cfg8 .C) = .next t) ∧ (∃ t, exec (.note 7) (fresh cfg8 .C) = .next t)
    ∧ (∃ t, exec (.wave 3) (fresh cfg8 .C) = .next t) ∧ (∃ t, exec .ampup (fresh cfg8 .C) = .next t)
    ∧ (∃ t, exec .ampdn (fresh cfg8 .C) = .next t) ∧ ∃ t, exec .clrerr (fresh cfg8 .C) = .next t :=
  ⟨⟨_, rfl⟩, ⟨_, rfl⟩, ⟨_, rfl⟩, ⟨_, rfl⟩, ⟨_, rfl⟩, ⟨_, rfl⟩, ⟨_, rfl⟩, _, rfl⟩

theorem witness_SynthesisCommandsFrame :
    (∃ t, exec .tick (fresh cfg8 .S) = .next t) ∧ (∃ t, exec (.push 0x3F800000) (fresh cfg8 .S) = .next t)
    ∧ (1 : Nat) ≠ (fresh cfg8 .S).wr ∧ (fresh cfg8 .S).wave ≠ .triangle :=
  ⟨⟨_, rfl⟩, ⟨_, rfl⟩, by decide, by decide⟩

theorem witness_AnalysisCommandsFrame :
    (∃ t, exec .snap win2 = .next t) ∧ (∃ t, exec .fft win2 = .next t) ∧ (∃ t, exec .mag win2 = .next t)
    ∧ win2.memoryOk ∧ win2.size ≤ 8 :=
  ⟨⟨_, rfl⟩, ⟨_, rfl⟩, ⟨_, rfl⟩, by intro sp; cases sp <;> decide, by decide⟩

theorem witness_ReadsHaveNoSideEffect :
    (∃ t, exec (.rdreg 3) win2 = .next t) ∧ (∃ t, exec (.rdsnap 8) win2 = .next t)
    ∧ (∃ t, exec (.rdre 7) win2 = .next t) ∧ (∃ t, exec (.rdim 7) win2 = .next t)
    ∧ (∃ t, exec (.rdbin 7) win2 = .next t)
    ∧ (∃ t u, exec .snap win2 = .next t ∧ exec .snap t = .next u)
    ∧ (∃ t u, exec .fft win2 = .next t ∧ exec .fft t = .next u)
    ∧ (∃ t u, exec .mag win2 = .next t ∧ exec .mag t = .next u)
    ∧ (∃ t, exec .tick (fresh cfg8 .S) = .next t) ∧ 1 < (fresh cfg8 .S).size
    ∧ F32.isFinite 0x3F800000 = true ∧ ∃ t, exec (.push 0x3F800000) (fresh cfg8 .S) = .next t :=
  ⟨⟨_, rfl⟩, ⟨_, rfl⟩, ⟨_, rfl⟩, ⟨_, rfl⟩, ⟨_, rfl⟩, ⟨_, _, rfl, rfl⟩, ⟨_, _, rfl, rfl⟩, ⟨_, _, rfl, rfl⟩,
    ⟨_, rfl⟩, by decide, by decide, _, rfl⟩

/-- A request of each port, and one that is rejected. -/
theorem witness_EachPortWritesOnlyItsState :
    (∃ t, runRequest ⟨0x11000000, 0⟩ (fresh cfg8 .C) = .next t ∧ (fresh cfg8 .C).port ≠ .S)
    ∧ (∃ t, runRequest ⟨0x21000000, 0x3F800000⟩ (fresh cfg8 .S) = .next t ∧ (fresh cfg8 .S).port ≠ .A)
    ∧ (∃ t, runRequest ⟨0x30000000, 0⟩ (fresh cfg8 .A) = .next t ∧ (fresh cfg8 .A).port ≠ .C)
    ∧ ∃ t, runRequest ⟨0x20000000, 0⟩ (fresh cfg8 .A) = .next t :=
  ⟨⟨_, rfl, by decide⟩, ⟨_, rfl, by decide⟩, ⟨_, rfl, by decide⟩, _, rfl⟩

theorem witness_SnapshotIsIsolated :
    (∀ c ∈ [(Port.C, Instr.note 7), (.S, .push 0x3F800000)], c.1 ≠ .A)
    ∧ ∃ t, execAll [(.C, .note 7), (.S, .push 0x3F800000)] (fresh cfg8 .A) = .next t :=
  ⟨by decide, _, rfl⟩

/-- An executed and a rejected request. -/
theorem witness_EveryRequestIsAnsweredOnce :
    (∃ t, runRequest ⟨0x0100000D, 0⟩ (fresh cfg8 .A) = .next t ∧ t.responses = [⟨.A, true, 0⟩])
    ∧ ∃ t, runRequest ⟨0x0100000E, 0⟩ (fresh cfg8 .A) = .next t ∧ t.responses = [⟨.A, false, 3⟩] :=
  ⟨⟨_, rfl, rfl⟩, _, rfl, rfl⟩

theorem witness_EveryStepKeepsTheInvariant : (warm1 .S).Inv ∧ ∃ t, step (warm1 .S) = .next t :=
  ⟨witness_Inv, _, rfl⟩

theorem witness_TheInvariantHoldsAfterReset : legalCfg cfg1 = true ∧ legalCfg cfgT = true := by
  decide +kernel

theorem witness_TheBlockNeverStops : (warm1 .S).Inv ∧ (warm1 .S).nextLegal :=
  ⟨witness_Inv, fun _ _ h => by cases h⟩

theorem witness_ResetLeavesTheResetState :
    legalCfg { cfg8 with log2n := 0 } = true ∧ legalCfg { cfg8 with log2n := 15 } = true := by
  decide +kernel

/-- Each event the statement speaks of. -/
theorem witness_ResetDropsRequestsAndLatchesCfg :
    ({ fresh cfg8 .C with schedule := [.assertReset], reqA := some ⟨0x31000000, 0⟩ } : State).schedule
        = .assertReset :: []
    ∧ (∃ s : State, s.rst = true ∧ s.schedule = .issue .S ⟨0x20000000, 0⟩ :: [])
    ∧ (∃ s : State, s.rst = true ∧ s.schedule = .serve .S :: [])
    ∧ (∃ s : State, s.rst = true ∧ legalCfg cfgT = true ∧ s.schedule = .releaseReset cfgT :: [])
    ∧ ∃ s : State, s.rst = true ∧ legalCfg { cfgT with log2n := 16 } = false
      ∧ s.schedule = .releaseReset { cfgT with log2n := 16 } :: [] :=
  ⟨rfl, ⟨{ fresh cfg8 .C with rst := true, schedule := [.issue .S ⟨0x20000000, 0⟩] }, rfl, rfl⟩,
    ⟨{ fresh cfg8 .C with rst := true, schedule := [.serve .S] }, rfl, rfl⟩,
    ⟨{ fresh cfg8 .C with rst := true, schedule := [.releaseReset cfgT] }, rfl, by decide +kernel, rfl⟩,
    ⟨{ fresh cfg8 .C with rst := true, schedule := [.releaseReset { cfgT with log2n := 16 }] }, rfl,
      by decide +kernel, rfl⟩⟩

theorem witness_OneRequestOutstandingPerPort :
    (∃ s : State, s.rst = false ∧ s.schedule = .issue .S ⟨0x20000000, 0⟩ :: [] ∧ s.request .S = none)
    ∧ (∃ s : State, s.rst = false ∧ s.schedule = .issue .S ⟨0x20000000, 0⟩ :: []
      ∧ s.request .S = some ⟨0x21000000, 0⟩)
    ∧ (∃ s t : State, s.premiseHost ∧ step s = .next t ∧ s.schedule = .serve .S :: [])
    ∧ ∃ s : State, s.premiseHost ∧ s.schedule = .issue .S ⟨0x20000000, 0⟩ :: [] :=
  ⟨⟨{ fresh cfg8 .C with schedule := [.issue .S ⟨0x20000000, 0⟩] }, rfl, rfl, rfl⟩,
    ⟨{ fresh cfg8 .C with schedule := [.issue .S ⟨0x20000000, 0⟩], reqS := some ⟨0x21000000, 0⟩ }, rfl, rfl,
      rfl⟩,
    ⟨{ fresh cfg8 .C with schedule := [.serve .S], reqS := some ⟨0x21000000, 0⟩ }, _, ⟨rfl, rfl⟩, rfl, rfl⟩,
    ⟨{ fresh cfg8 .C with schedule := [.issue .S ⟨0x20000000, 0⟩] }, ⟨rfl, rfl⟩, rfl⟩⟩

/-- Two ports wait. -/
theorem witness_OutstandingRequestsAreAnswered :
    ∃ s : State, s.Inv ∧ s.rst = false ∧ s.schedule = [] ∧ s.waiting = [.C, .S] :=
  ⟨{ warm1 .A with reqC := some ⟨0x11000000, 0⟩, reqS := some ⟨0x21000000, 0⟩ },
    ⟨witness_Inv.ring, witness_Inv.memory, witness_Inv.err, witness_Inv.tuned, witness_Inv.flags,
      witness_Inv.levels, ⟨fun h => (by cases h), witness_Inv.ports.2⟩⟩, rfl, rfl, by decide⟩

/-- A warm window that takes another push. -/
theorem witness_WarmStaysWarm :
    ∃ s t : State, s.fill = s.size ∧ step s = .next t ∧ (∀ c rest, s.schedule ≠ .releaseReset c :: rest)
      ∧ s.schedule = [.serve .S] ∧ s.reqS = some ⟨0x21000000, 0x40000000⟩ :=
  ⟨{ warm1 .C with schedule := [.serve .S], reqS := some ⟨0x21000000, 0x40000000⟩ }, _, by decide, rfl,
    fun _ _ h => (by cases h), rfl, rfl⟩

theorem witness_ParametersChangeOnlyAtReset :
    ∃ s t : State, step s = .next t ∧ (∀ c rest, s.schedule ≠ .releaseReset c :: rest)
      ∧ s.schedule = [.serve .C] ∧ s.reqC = some ⟨0x15000000, 0⟩ :=
  ⟨{ warm1 .C with schedule := [.serve .C], reqC := some ⟨0x15000000, 0⟩ }, _, rfl,
    fun _ _ h => (by cases h), rfl, rfl⟩

theorem witness_FrameEmitsExactlyItsSamples : (fresh cfg1 .C).wr < (fresh cfg1 .C).size := by decide

/-- Operands whose sum and product are finite and not exact. -/
theorem witness_SumsAndProductsRoundToNearest :
    F32.isFinite 0x3F800001 = true ∧ F32.isFinite 0x33000001 = true
    ∧ (F32.add 0x3F800001 0x33000001).isFinite = true ∧ (F32.mul 0x3F800001 0x33000001).isFinite = true := by
  decide +kernel

theorem witness_MultiplicationByOneIsExact : F32.isFinite 0x00000001 = true ∧ F32.isFinite 0xFF7FFFFF = true := by
  decide

theorem witness_ControlCommandsProduceNoNaN :
    ∃ s t : State, s.port = .C ∧ s.baseFreq = 0x7F7FFFFF ∧ s.baseFreq.isFinite = true
      ∧ s.targetFreq.isFinite = true ∧ s.amplitude.isFinite = true ∧ s.ampStep.isFinite = true
      ∧ runRequest ⟨0x11000000, 0⟩ s = .next t :=
  ⟨{ fresh cfg8 .C with baseFreq := 0x7F7FFFFF, targetFreq := 0x7F7FFFFF }, _, rfl, rfl, by decide, by decide,
    by decide, by decide, rfl⟩

theorem witness_HardwareIsTheBlockAtF32 :
    (fresh cfg8 .S).wr < (fresh cfg8 .S).size ∧ (fresh cfg8 .S).memoryOk
    ∧ legalCfg { cfg8 with log2n := 15 } = true
    ∧ Parameters.legal ⟨.f32, { cfg8 with log2n := 16 }⟩ = false ∧ Parameters.legal ⟨.real, realDefaults⟩ = true :=
  ⟨by decide, fun sp => by cases sp <;> decide, by decide +kernel, by decide +kernel, test_parametersLegal.2.1⟩

end Sys2Proof.Tests
end

/-! ## The ports between commands -/

section
open Sys2Proof Sys2Proof.Machine

namespace Sys2Proof.Machine

/-- What serving a request leaves of a state, whatever the command: the interface and the size are kept, `WR`
stays in range and one response is given on the port in service (00_scope.md R17, 30_encoding.md R74). -/
structure State.Served (s t : State) : Prop where
  interface : sameInterface s t
  log2n : t.log2n = s.log2n
  inRing : s.wr < s.size → t.wr < t.size
  response : ∃ ok v, t.responses = s.responses ++ [⟨s.port, ok, v⟩]

theorem State.request_setRequest (p q : Port) (r : Option Request) (s : State) :
    (s.setRequest p r).request q = if q = p then r else s.request q := by
  split
  · subst q
    exact State.setRequest_request_same p r s
  · exact State.setRequest_request_other p r s q ‹_›

theorem State.request_take (p q : Port) (s : State) :
    (s.take p).request q = if q = p then none else s.request q :=
  State.request_setRequest p q none s

theorem sameInterface.request {s t : State} (h : sameInterface s t) (q : Port) :
    t.request q = s.request q := by
  obtain ⟨-, hC, hS, hA, -⟩ := h
  cases q
  · exact hC
  · exact hS
  · exact hA

theorem State.served_reject (op : BitVec 8) (code : ErrCode) (s : State) : s.Served (s.reject op code) :=
  ⟨⟨rfl, rfl, rfl, rfl, rfl, rfl, rfl⟩, rfl, id, _, _, rfl⟩

/-- An admitted command serves its request if its body does. -/
theorem accept_served {α : Type} {i : Instr} {operand : Except ErrCode α} {body : α → State → Result}
    {s t : State} (h : accept i operand body s = .next t)
    (hb : ∀ a, body a s = .next t → s.Served t) : s.Served t := by
  rcases accept_eq_next h with ⟨code, rfl⟩ | ⟨-, a, -, ha⟩
  · exact s.served_reject i.opcode code
  · exact hb a ha

/-- Every command serves its request. -/
theorem exec_served {i : Instr} {s t : State} (h : exec i s = .next t) : s.Served t := by
  have inRange : ∀ n, (n + 1) % s.size < s.size := fun _ => Nat.mod_lt _ (Nat.two_pow_pos _)
  cases i
  all_goals
    unfold exec at h
    refine accept_served h fun _ hb => ?_
  case tick | push =>
    obtain ⟨u, hu, rfl⟩ := mapNext_eq_next hb
    obtain ⟨-, rfl⟩ := State.pushSample_eq_next hu
    exact ⟨⟨rfl, rfl, rfl, rfl, rfl, rfl, rfl⟩, rfl, fun _ => inRange _, _, _, rfl⟩
  all_goals
    cases hb
    exact ⟨⟨rfl, rfl, rfl, rfl, rfl, rfl, rfl⟩, rfl, id, _, _, rfl⟩

/-- Every request is served, executed or rejected. -/
theorem runRequest_served {r : Request} {s t : State} (h : runRequest r s = .next t) : s.Served t := by
  rcases runRequest_eq_next h with ⟨i, -, hi⟩ | ⟨-, rfl⟩
  · exact exec_served hi
  · exact s.served_reject _ _

/-- An admission stops the block only where the body does. -/
theorem accept_completes {α : Type} {i : Instr} {operand : Except ErrCode α} {body : α → State → Result}
    {s : State} (hb : ∀ a, ∃ t, body a s = .next t) : ∃ t, accept i operand body s = .next t := by
  unfold accept
  split
  · exact hb _
  · exact ⟨_, rfl⟩

/-- A push answers a next state where `WR < N`. -/
theorem pushSample_completes {s : State} (h : s.wr < s.size) (f : State → State) (v : F32) :
    ∃ t, mapNext f (s.pushSample v) = .next t := by
  rw [State.pushSample_next h]
  exact ⟨_, rfl⟩

/-- With `WR < N` no command stops the block (log 11). -/
theorem exec_completes (i : Instr) {s : State} (h : s.wr < s.size) : ∃ t, exec i s = .next t := by
  cases i
  all_goals
    unfold exec
    refine accept_completes fun _ => ?_
  case tick | push =>
    refine pushSample_completes ?_ _ _
    exact h
  all_goals exact ⟨_, rfl⟩

/-- With `WR < N` no request stops the block. -/
theorem runRequest_completes (r : Request) {s : State} (h : s.wr < s.size) :
    ∃ t, runRequest r s = .next t := by
  unfold runRequest
  split
  · exact exec_completes _ h
  · exact ⟨_, rfl⟩

/-- After the service of a port it holds no request; the other ports, the schedule and `rst` are kept. -/
theorem serve_keeps_ports {p : Port} {s t : State} (hr : s.rst = false) (h : serve p s = .next t) :
    t.rst = false ∧ t.schedule = s.schedule
      ∧ ∀ q, t.request q = if q = p then none else s.request q := by
  cases hq : s.request p with
  | none =>
    obtain rfl : s = t := by simpa [serve, hr, hq] using h
    refine ⟨hr, rfl, fun q => ?_⟩
    split
    · subst q
      exact hq
    · rfl
  | some r =>
    rw [serve_request hr hq] at h
    have hi := (runRequest_served h).interface
    have hreq := hi.request
    obtain ⟨hrst, -, -, -, hsched, -, -⟩ := hi
    refine ⟨by rw [hrst, State.take_rst, hr], by rw [hsched, State.take_schedule], fun q => ?_⟩
    rw [hreq, State.request_take]

/-- A step whose next event presents a request. -/
theorem step_issue {s : State} {rest : List Event} {p : Port} {r : Request}
    (hs : s.schedule = .issue p r :: rest) : step s = present p r s { s with schedule := rest } := by
  simp [step, advance, hs]

theorem present_idle {p : Port} {r : Request} {again s : State} (hr : s.rst = false)
    (hq : s.request p = none) : present p r again s = .next (s.setRequest p (some r)) := by
  simp [present, hr, hq]

theorem present_busy {p : Port} {r r' : Request} {again s : State} (hr : s.rst = false)
    (hq : s.request p = some r') : present p r again s = serve p again := by
  simp [present, hr, hq]

/-- A request presented on a port that holds none is accepted. -/
theorem step_issue_idle {s : State} {rest : List Event} {p : Port} {r : Request} (hr : s.rst = false)
    (hs : s.schedule = .issue p r :: rest) (hq : s.request p = none) :
    step s = .next (State.setRequest p (some r) { s with schedule := rest }) :=
  (step_issue hs).trans (present_idle (s := { s with schedule := rest }) hr hq)

/-- A request presented on a port that holds one waits while that one is served. -/
theorem step_issue_busy {s : State} {rest : List Event} {p : Port} {r r' : Request} (hr : s.rst = false)
    (hs : s.schedule = .issue p r :: rest) (hq : s.request p = some r') :
    step s = runRequest r' (s.take p) :=
  calc step s = serve p s := (step_issue hs).trans (present_busy (s := { s with schedule := rest }) hr hq)
    _ = runRequest r' (s.take p) := serve_request hr hq

/-- With an empty schedule and no port that waits, the state does not change (00_scope.md R17). -/
theorem step_idle {s : State} (hs : s.schedule = []) (hg : s.granted = none) : step s = .next s := by
  simp [step, advance, hs, drain, hg]

/-- With an empty schedule, a step serves the port the free choice grants (00_scope.md R19). -/
theorem step_granted {s : State} {p : Port} (hs : s.schedule = []) (hg : s.granted = some p) :
    step s = serve p { s with arb := s.arb + 1 } := by
  simp [step, advance, hs, drain, hg]

/-- What `P_HOST` says of the schedule when its next event is known. -/
theorem State.premiseHost.next {s : State} {e : Event} {rest : List Event} (h : s.premiseHost)
    (hs : s.schedule = e :: rest) : hostKeeps (fun p => (s.request p).isSome) (e :: rest) = true :=
  hs ▸ h.2

/-- A host that keeps `P_HOST` presents no request on a port that holds one. -/
theorem State.premiseHost.issue {s : State} {rest : List Event} {p : Port} {r : Request}
    (h : s.premiseHost) (hs : s.schedule = .issue p r :: rest) :
    s.request p = none ∧ hostKeeps (fun q => q == p || (s.request q).isSome) rest = true := by
  simpa [hostKeeps] using h.next hs

/-- The service of a port keeps `P_HOST` where what remains of the schedule does. -/
theorem serve_premiseHost {p : Port} {s t : State} (hr : s.rst = false) (h : serve p s = .next t)
    (hk : hostKeeps (fun q => q != p && (s.request q).isSome) s.schedule = true) : t.premiseHost := by
  obtain ⟨hrst, hsched, hreq⟩ := serve_keeps_ports hr h
  refine ⟨hrst, ?_⟩
  have : (fun q => (t.request q).isSome) = fun q => q != p && (s.request q).isSome := by
    funext q
    rw [hreq]
    by_cases hqp : q = p <;> simp [hqp]
  rw [this, hsched, hk]

/-- Every step keeps `P_HOST`. -/
theorem step_premiseHost {s t : State} (h : s.premiseHost) (ht : step s = .next t) : t.premiseHost := by
  have hr := h.1
  cases hs : s.schedule with
  | nil =>
    cases hg : s.granted with
    | none =>
      rw [step_idle hs hg] at ht
      cases ht
      exact h
    | some p =>
      rw [step_granted hs hg] at ht
      exact serve_premiseHost (s := { s with arb := s.arb + 1 }) hr ht (by simp [hs, hostKeeps])
  | cons e rest =>
    cases e with
    | issue p r =>
      obtain ⟨hq, hk⟩ := h.issue hs
      rw [step_issue_idle hr hs hq] at ht
      cases ht
      refine ⟨by simpa using hr, ?_⟩
      have : (fun q => ((State.setRequest p (some r) { s with schedule := rest }).request q).isSome)
          = fun q => q == p || (s.request q).isSome := by
        funext q
        rw [State.request_setRequest]
        by_cases hqp : q = p
        · simp [hqp]
        · simp only [hqp, if_false, beq_false_of_ne hqp, Bool.false_or]
          rfl
      rw [this, State.setRequest_schedule, hk]
    | serve p =>
      rw [step_serve hs] at ht
      exact serve_premiseHost (s := { s with schedule := rest }) hr ht (h.next hs)
    | assertReset => exact absurd (h.next hs) Bool.false_ne_true
    | releaseReset c => exact absurd (h.next hs) Bool.false_ne_true

/-! ### The drain -/

theorem State.mem_waiting {s : State} {p : Port} : p ∈ s.waiting ↔ (s.request p).isSome = true := by
  cases p <;> simp [State.waiting]

theorem State.waiting_nodup (s : State) : s.waiting.Nodup := List.Nodup.filter _ (by decide)

theorem State.granted_of_waiting_nil {s : State} (h : s.waiting = []) : s.granted = none := by
  simp [State.granted, h]

/-- While a port waits, the free choice grants a port that waits (log 3). -/
theorem State.granted_mem {s : State} (h : s.waiting ≠ []) : ∃ p ∈ s.waiting, s.granted = some p := by
  unfold State.granted
  split
  · contradiction
  · exact ⟨_, by simp [*], rfl⟩
  · rename_i p q rest hw
    refine ⟨_, ?_, rfl⟩
    have hlt : Config.arbiter s.arb % (rest.length + 2) < (p :: q :: rest).length :=
      Nat.mod_lt _ (Nat.succ_pos _)
    rw [hw, List.getD_eq_getElem _ _ hlt]
    exact List.getElem_mem hlt

/-- Serving a port takes it, and no other, off the ports that wait. -/
theorem State.waiting_after_serve {s t : State} {p : Port}
    (h : ∀ q, t.request q = if q = p then none else s.request q) : t.waiting = s.waiting.erase p := by
  rw [s.waiting_nodup.erase_eq_filter, State.waiting, State.waiting, List.filter_filter]
  refine List.filter_congr fun q _ => ?_
  rw [h]
  by_cases hqp : q = p <;> simp [hqp]

/-- With an empty schedule and a port that waits, one step answers one request and one port fewer waits. -/
theorem step_answers_one {s : State} (hwr : s.wr < s.size) (hr : s.rst = false) (hs : s.schedule = [])
    (hw : s.waiting ≠ []) :
    ∃ t, step s = .next t ∧ t.wr < t.size ∧ t.rst = false ∧ t.schedule = []
      ∧ t.waiting.length + 1 = s.waiting.length ∧ t.responses.length = s.responses.length + 1 := by
  obtain ⟨p, hp, hg⟩ := State.granted_mem hw
  obtain ⟨r, hq⟩ := Option.isSome_iff_exists.1 (State.mem_waiting.1 hp)
  let u : State := { s with arb := s.arb + 1 }
  have hstep : step s = serve p u := step_granted hs hg
  have hserve : serve p u = runRequest r (u.take p) := serve_request hr hq
  obtain ⟨t, ht⟩ := runRequest_completes r (s := u.take p) (by simpa [State.size, u] using hwr)
  obtain ⟨-, -, hring, ok, v, hresp⟩ := runRequest_served ht
  obtain ⟨hrst, hsched, hreq⟩ := serve_keeps_ports (s := u) hr (hserve.trans ht)
  refine ⟨t, (hstep.trans hserve).trans ht, hring (by simpa [State.size, u] using hwr), hrst,
    hsched.trans hs, ?_, ?_⟩
  · have hpos := List.length_pos_of_mem hp
    rw [State.waiting_after_serve (s := s) hreq, List.length_erase_of_mem hp]
    omega
  · simp [hresp, u]

/-- As many steps as ports wait answer them all. -/
theorem run_answers_all (n : Nat) : ∀ s : State, s.wr < s.size → s.rst = false → s.schedule = [] →
    s.waiting.length = n →
    ∃ t, s.reaches n t ∧ t.waiting = [] ∧ t.responses.length = s.responses.length + n
      ∧ step t = .next t := by
  induction n with
  | zero =>
    intro s _ _ hs hn
    have hw := List.length_eq_zero_iff.1 hn
    exact ⟨s, State.reaches_zero.2 rfl, hw, rfl, step_idle hs (State.granted_of_waiting_nil hw)⟩
  | succ n ih =>
    intro s hwr hr hs hn
    obtain ⟨u, hu, huwr, hur, hus, hlen, hresp⟩ :=
      step_answers_one hwr hr hs (List.ne_nil_of_length_eq_add_one hn)
    obtain ⟨t, hreach, hw, hresp', hidle⟩ := ih u huwr hur hus (by omega)
    exact ⟨t, State.reaches_succ.2 ⟨u, hu, hreach⟩, hw, by omega, hidle⟩

end Sys2Proof.Machine

/-- Settles O51: the two branches of `present`, and `P_HOST` as an invariant of the step. -/
theorem oneRequestOutstandingPerPort : Obligations.OneRequestOutstandingPerPort :=
  ⟨fun _ _ p r hr hs hq => ⟨step_issue_idle hr hs hq, fun q => State.request_setRequest p q (some r) _⟩,
    fun _ _ _ _ _ hr hs hq => step_issue_busy hr hs hq,
    fun _ _ h ht => step_premiseHost h ht,
    fun _ _ _ _ h hs => (h.issue hs).1⟩

/-- Settles O52, by induction on the number of ports that wait: each step serves one of them. -/
theorem outstandingRequestsAreAnswered : Obligations.OutstandingRequestsAreAnswered :=
  fun s hinv hr hs => run_answers_all s.waiting.length s hinv.ring.1 hr hs rfl

end

/-! ## Binary32: the semitone table and rounding to nearest -/

section
open Sys2Proof Sys2Proof.Machine

/-- Settles O58: the entries of the table, each compared on integers. -/
theorem semitoneTableIsNearest : Obligations.SemitoneTableIsNearest := by
  unfold Obligations.SemitoneTableIsNearest
  decide +kernel

namespace Sys2Proof

/-- `nearestEven` is the quotient or the integer after it, whichever is not the farther one. -/
theorem F32.nearestEven_cases (num den : Nat) :
    (F32.nearestEven num den = num / den ∧ 2 * (num % den) ≤ den)
      ∨ (F32.nearestEven num den = num / den + 1 ∧ den ≤ 2 * (num % den)) := by
  simp only [F32.nearestEven]
  split_ifs <;> omega

/-- `nearestEven` is as near to the quotient as any integer. -/
theorem F32.nearestEven_nearest (num : Nat) {den : Nat} (hd : 0 < den) (k : Nat) :
    |(F32.nearestEven num den * den : Int) - num| ≤ |(k * den : Int) - num| := by
  have hlt : num % den < den := Nat.mod_lt _ hd
  have hnum : (num : Int) = (num / den : Nat) * den + (num % den : Nat) := by
    exact_mod_cast (Nat.div_add_mod' num den).symm
  have hcases := F32.nearestEven_cases num den
  generalize num / den = q at hnum hcases
  generalize num % den = r at hnum hcases hlt
  have hfar : (r : Int) ≤ |(k * den : Int) - num| ∨ (den - r : Int) ≤ |(k * den : Int) - num| := by
    rcases Nat.lt_or_ge q k with h | h
    · have : ((q + 1 : Nat) * den : Int) ≤ k * den := by exact_mod_cast Nat.mul_le_mul_right den h
      push_cast at this
      exact .inr (le_trans (by linarith) (le_abs_self _))
    · have : (k * den : Int) ≤ q * den := by exact_mod_cast Nat.mul_le_mul_right den h
      exact .inl (le_trans (by linarith) (neg_le_abs _))
  rcases hcases with ⟨hn, hr⟩ | ⟨hn, hr⟩
  · have : |(F32.nearestEven num den * den : Int) - num| = r := by
      rw [hn, hnum, sub_add_cancel_left, abs_neg, Nat.abs_cast]
    omega
  · have : |(F32.nearestEven num den * den : Int) - num| = den - r := by
      rw [hn, hnum, abs_of_nonneg] <;> push_cast <;> linarith
    omega

/-- The magnitude that the bits of a datum without its sign stand for, in units of `2^-149`. -/
def F32.magOfBits (bits : Nat) : Nat :=
  if bits / 2 ^ 23 = 0 then bits % 2 ^ 23 else (bits % 2 ^ 23 + 2 ^ 23) <<< (bits / 2 ^ 23 - 1)

theorem F32.pack_mag {neg : Bool} {bits : Nat} (h : bits < 2 ^ 31) :
    (F32.pack neg bits).mag = F32.magOfBits bits := by
  rw [F32.mag, F32.pack_expField h, F32.pack_frac h, F32.magOfBits]

/-- The bits that spacing `2^e` and `q` significant units give stand for `q * 2^e`; a carry into the next
power of two included. -/
theorem F32.magOfBits_spaced {e q : Nat} (hq : q ≤ 2 ^ 24) (he : e = 0 ∨ 2 ^ 23 ≤ q) :
    F32.magOfBits (e * 2 ^ 23 + q) = q * 2 ^ e := by
  rw [F32.magOfBits]
  rcases Nat.lt_or_ge q (2 ^ 23) with hsub | hnorm
  · obtain rfl : e = 0 := he.resolve_right (by omega)
    rw [if_pos (by omega)]
    omega
  · rcases Nat.lt_or_ge q (2 ^ 24) with hlt | hge
    · rw [if_neg (by omega), Nat.shiftLeft_eq, show (e * 2 ^ 23 + q) / 2 ^ 23 - 1 = e by omega]
      congr 1
      omega
    · obtain rfl : q = 2 ^ 24 := by omega
      rw [if_neg (by omega), Nat.shiftLeft_eq, show (e * 2 ^ 23 + 2 ^ 24) / 2 ^ 23 - 1 = e + 1 by omega,
        show (e * 2 ^ 23 + 2 ^ 24) % 2 ^ 23 = 0 by omega]
      ring

/-- A magnitude has at most 24 significant bits. -/
theorem F32.mag_spaced (z : F32) : ∃ e q, z.mag = q * 2 ^ e ∧ q < 2 ^ 24 := by
  have hf := z.frac_lt
  rw [F32.mag]
  split
  · exact ⟨0, z.frac, by simp, by omega⟩
  · exact ⟨z.expField - 1, z.frac + 2 ^ 23, Nat.shiftLeft_eq _ _, by omega⟩

/-- Where rounding gives a finite datum: its spacing `2^e`, the significant units kept, and the bounds of the
value by which `e` is the spacing. -/
theorem F32.roundMag_spacing {num den : Nat} (hfin : F32.roundMag num den < 0x7F800000) :
    ∃ e, F32.roundMag num den = e * 2 ^ 23 + F32.nearestEven num (den * 2 ^ e)
      ∧ num / (den * 2 ^ e) < 2 ^ 24 ∧ (e = 0 ∨ 2 ^ 23 ≤ num / (den * 2 ^ e)) := by
  refine ⟨Nat.log2 (num / den) - 23, ?_, ?_, ?_⟩
  · simp only [F32.roundMag, Nat.shiftLeft_eq] at hfin ⊢
    omega
  · rw [← Nat.div_div_eq_div_mul, Nat.div_lt_iff_lt_mul (Nat.two_pow_pos _), ← pow_add]
    exact Nat.lt_log2_self.trans_le (Nat.pow_le_pow_right (by norm_num) (by omega))
  · rcases Nat.lt_or_ge (Nat.log2 (num / den)) 23 with hl | hl
    · exact .inl (by omega)
    · right
      have hne : num / den ≠ 0 := fun h => by simp [h] at hl
      rw [← Nat.div_div_eq_div_mul, Nat.le_div_iff_mul_le (Nat.two_pow_pos _), ← pow_add,
        Nat.add_sub_cancel' hl]
      exact Nat.log2_self_le hne

/-- Where rounding gives a finite datum, no datum's magnitude is nearer to the value. -/
theorem F32.roundMag_nearest (num : Nat) {den : Nat} (hd : 0 < den)
    (hfin : F32.roundMag num den < 0x7F800000) (z : F32) :
    |(F32.magOfBits (F32.roundMag num den) * den : Int) - num| ≤ |(z.mag * den : Int) - num| := by
  obtain ⟨e, hround, hlt, hge⟩ := F32.roundMag_spacing hfin
  have hpos : 0 < den * 2 ^ e := Nat.mul_pos hd (Nat.two_pow_pos e)
  have hq : F32.nearestEven num (den * 2 ^ e) ≤ 2 ^ 24
      ∧ (e = 0 ∨ 2 ^ 23 ≤ F32.nearestEven num (den * 2 ^ e)) := by
    rcases F32.nearestEven_cases num (den * 2 ^ e) with ⟨h, -⟩ | ⟨h, -⟩ <;> omega
  have hnear := F32.nearestEven_nearest num hpos
  have hval : (F32.magOfBits (F32.roundMag num den) * den : Int)
      = F32.nearestEven num (den * 2 ^ e) * (den * 2 ^ e : Nat) := by
    rw [hround, F32.magOfBits_spaced hq.1 hq.2]
    push_cast
    ring
  rw [hval]
  obtain ⟨e', k, hz, hk⟩ := z.mag_spaced
  rcases Nat.lt_or_ge e' e with hfiner | hcoarser
  · -- a datum of a finer spacing lies below `2^23 * 2^e`, which the value reaches
    have hle : z.mag * den ≤ 2 ^ 23 * (den * 2 ^ e) := by
      have : z.mag ≤ 2 ^ 23 * 2 ^ e := by
        calc z.mag = k * 2 ^ e' := hz
          _ ≤ 2 ^ 24 * 2 ^ e' := Nat.mul_le_mul_right _ hk.le
          _ = 2 ^ 23 * 2 ^ (e' + 1) := by ring
          _ ≤ 2 ^ 23 * 2 ^ e := Nat.mul_le_mul_left _ (Nat.pow_le_pow_right (by norm_num) hfiner)
      calc z.mag * den ≤ 2 ^ 23 * 2 ^ e * den := Nat.mul_le_mul_right _ this
        _ = 2 ^ 23 * (den * 2 ^ e) := by ring
    have hreach : 2 ^ 23 * (den * 2 ^ e) ≤ num :=
      (Nat.le_div_iff_mul_le hpos).1 (hge.resolve_left (by omega))
    have hle' : (z.mag * den : Int) ≤ (2 ^ 23 : Nat) * (den * 2 ^ e : Nat) := by exact_mod_cast hle
    have hreach' : ((2 ^ 23 : Nat) * (den * 2 ^ e : Nat) : Int) ≤ num := by exact_mod_cast hreach
    refine (hnear (2 ^ 23)).trans ?_
    rw [abs_of_nonpos (by linarith), abs_of_nonpos (by linarith)]
    linarith
  · -- a datum of the spacing `2^e` or a coarser one is a multiple of `2^e`
    have hmul : (z.mag * den : Int) = (k * 2 ^ (e' - e) : Nat) * (den * 2 ^ e : Nat) := by
      rw [hz, ← Nat.sub_add_cancel hcoarser, Nat.add_sub_cancel, pow_add]
      push_cast
      ring
    rw [hmul]
    exact hnear _

/-- The value of a datum is its magnitude up to the sign. -/
theorem F32.abs_toInt (x : F32) : |x.toInt| = x.mag := by
  cases hs : x.sign <;> simp [F32.toInt, hs]

/-- A magnitude rounded and given the sign of the exact value `a`: where it is finite, no datum is nearer. -/
theorem F32.pack_roundMag_nearest {neg : Bool} {num den : Nat} {a : Int} (hd : 0 < den)
    (ha : a = if neg then -(num : Int) else num)
    (hfin : (F32.pack neg (F32.roundMag num den)).isFinite = true) (z : F32) :
    |(F32.pack neg (F32.roundMag num den)).toInt * den - a| ≤ |z.toInt * den - a| := by
  have hle := F32.roundMag_le num den
  have hlt : F32.roundMag num den < 2 ^ 31 := by omega
  have hexp := F32.expField_lt hfin
  rw [F32.pack_expField hlt] at hexp
  have habs : |a| = num := by cases neg <;> simp [ha]
  have hval : |(F32.pack neg (F32.roundMag num den)).toInt * den - a|
      = |(F32.magOfBits (F32.roundMag num den) * den : Int) - num| := by
    rw [F32.toInt, F32.pack_sign hlt, F32.pack_mag hlt, ha]
    cases neg
    · rfl
    · simp only [if_true]
      rw [← abs_neg]
      congr 1
      ring
  calc |(F32.pack neg (F32.roundMag num den)).toInt * den - a|
      = |(F32.magOfBits (F32.roundMag num den) * den : Int) - num| := hval
    _ ≤ |(z.mag * den : Int) - num| := F32.roundMag_nearest num hd (by omega) z
    _ = |(|z.toInt * den|) - (|a|)| := by rw [abs_mul, F32.abs_toInt, habs, Nat.abs_cast]
    _ ≤ |z.toInt * den - a| := abs_abs_sub_abs_le _ _

/-- The sum of finite data: an exact zero, or the exact sum rounded once. -/
theorem F32.add_finite {x y : F32} (hx : x.isFinite = true) (hy : y.isFinite = true) :
    F32.add x y = if x.toInt + y.toInt = 0 then F32.pack (x.sign && y.sign) 0
      else F32.pack (decide (x.toInt + y.toInt < 0)) (F32.roundMag (x.toInt + y.toInt).natAbs 1) := by
  simp [F32.add, F32.sum, F32.not_inf_nan hx, F32.not_inf_nan hy]

/-- The product of finite data: the exact product rounded once. -/
theorem F32.mul_finite {x y : F32} (hx : x.isFinite = true) (hy : y.isFinite = true) :
    F32.mul x y = F32.pack (x.sign != y.sign) (F32.roundMag (x.mag * y.mag) (2 ^ 149)) := by
  simp [F32.mul, F32.not_inf_nan hx, F32.not_inf_nan hy]

theorem F32.pack_zero_toInt (neg : Bool) : (F32.pack neg 0).toInt = 0 := by
  cases neg <;> decide

theorem F32.add_nearest {x y : F32} (hx : x.isFinite = true) (hy : y.isFinite = true)
    (hfin : (F32.add x y).isFinite = true) (z : F32) :
    |(F32.add x y).toInt - (x.toInt + y.toInt)| ≤ |z.toInt - (x.toInt + y.toInt)| := by
  rw [F32.add_finite hx hy] at hfin ⊢
  split at hfin
  · rw [if_pos ‹_›, F32.pack_zero_toInt, ‹x.toInt + y.toInt = 0›, sub_zero, abs_zero]
    exact abs_nonneg _
  · rw [if_neg ‹_›]
    have ha : x.toInt + y.toInt = if decide (x.toInt + y.toInt < 0) = true
        then -((x.toInt + y.toInt).natAbs : Int) else (x.toInt + y.toInt).natAbs := by
      simp only [decide_eq_true_eq]
      split <;> omega
    simpa only [Nat.cast_one, mul_one] using F32.pack_roundMag_nearest Nat.one_pos ha hfin z

theorem F32.mul_nearest {x y : F32} (hx : x.isFinite = true) (hy : y.isFinite = true)
    (hfin : (F32.mul x y).isFinite = true) (z : F32) :
    |(F32.mul x y).toInt * 2 ^ 149 - x.toInt * y.toInt| ≤ |z.toInt * 2 ^ 149 - x.toInt * y.toInt| := by
  rw [F32.mul_finite hx hy] at hfin ⊢
  have ha : x.toInt * y.toInt = if (x.sign != y.sign) = true
      then -((x.mag * y.mag : Nat) : Int) else (x.mag * y.mag : Nat) := by
    cases hsx : x.sign <;> cases hsy : y.sign <;> simp [F32.toInt, hsx, hsy]
  simpa only [Nat.cast_pow, Nat.cast_ofNat] using
    F32.pack_roundMag_nearest (Nat.two_pow_pos 149) ha hfin z

end Sys2Proof

/-- Settles O56: both operations round the exact value once, and rounding is to the nearest datum. -/
theorem sumsAndProductsRoundToNearest : Obligations.SumsAndProductsRoundToNearest :=
  ⟨fun _ _ z hx hy _ hfin => F32.add_nearest hx hy hfin z,
    fun _ _ z hx hy _ hfin => F32.mul_nearest hx hy hfin z⟩

end

/-! ## The hardware and the block over `NUM_F32` -/

section
open Sys2Proof Sys2Proof.Machine

namespace Sys2Proof.Machine

/-- The hardware's answer `r` in state `s` is the block's answer `u`: a next state whose architectural state
and response are those of `u` (00_scope.md R7). -/
def State.Agrees (s : State) (r : Result) (u : Block F32 × Answer F32) : Prop :=
  ∃ t, r = .next t ∧ t.block = u.1 ∧ t.responses = s.responses ++ [⟨s.port, u.2.ok, u.2.payload.bits⟩]

/-- The rejection of the hardware agrees with the rejection of the block. -/
theorem State.agrees_reject (op : BitVec 8) (code : ErrCode) (s : State) :
    s.Agrees (.next (s.reject op code)) (s.block.reject op s.port code) :=
  ⟨_, rfl, s.reject_block op code, rfl⟩

/-- The two admissions agree where the bodies do on every good operand. -/
theorem agrees_accept {α : Type} {i : Instr} {operand : Except ErrCode α} {body : α → State → Result}
    {blockBody : α → Block F32 × Payload F32} {s : State}
    (h : ∀ a, s.Agrees (body a s) ((blockBody a).1, ⟨true, (blockBody a).2⟩)) :
    s.Agrees (accept i operand body s) (s.block.accept i s.port operand blockBody) := by
  cases hc : checked i s.port operand with
  | ok a =>
    rw [Block.accept_ok hc, accept, hc]
    exact h a
  | error code =>
    rw [Block.accept_error hc, accept, hc]
    exact s.agrees_reject i.opcode code

/-- Replace one element memory. -/
def State.setMemory (sp : Space) (m : Memory) (s : State) : State :=
  match sp with
  | .win => { s with win := m }
  | .snap => { s with snap := m }
  | .xre => { s with xre := m }
  | .xim => { s with xim := m }
  | .freq => { s with freq := m }

theorem State.memory_setMemory (sp q : Space) (m : Memory) (s : State) :
    (s.setMemory sp m).memory q = if q = sp then m else s.memory q := by
  cases sp <;> cases q <;> rfl

theorem State.block_setMemory (sp : Space) (m : Memory) (s : State) :
    (s.setMemory sp m).block = { s.block with mem := (s.setMemory sp m).memRead } := by
  cases sp <;> rfl

theorem State.memRead_setMemory_fill {s : State} {sp : Space} (hm : (s.memory sp).within s.size)
    (f : Nat → F32) : (s.setMemory sp (Memory.fill s.size f)).memRead
      = fun q i => if q = sp ∧ i < s.size then f i else s.memRead q i := by
  funext q i
  by_cases hq : q = sp
  · subst q
    simp only [State.memRead, State.memory_setMemory, if_true, Memory.read_fill_over hm, true_and]
  · simp only [State.memRead, State.memory_setMemory, hq, if_false, false_and]

/-- Writing all `N` elements of one memory at once is the store of the block (20_memory.md R54). -/
theorem State.block_setMemory_fill {s : State} {sp : Space} (hm : (s.memory sp).within s.size)
    (f : Nat → F32) : (s.setMemory sp (Memory.fill s.size f)).block = s.block.store sp f := by
  rw [State.block_setMemory, State.memRead_setMemory_fill hm]
  rfl

/-- `SNAP` of the hardware does what `SNAP` of the block does. -/
theorem State.snap_block {s : State} (hm : s.memoryOk) :
    (State.flagsAfterSnap { s with snap := Memory.fill s.size s.windowAt }).block = s.block.snap :=
  congrArg (fun b : Block F32 => { b with snapv := true, specv := false, magv := false })
    (State.block_setMemory_fill (hm .snap).2 s.windowAt)

/-- `FFT` of the hardware does what `FFT` of the block does: two memories, one written after the other. -/
theorem State.fft_block {s : State} (hm : s.memoryOk) :
    (fftWith Num.f32 s).block = s.block.fft Num.f32 := by
  let x := Num.f32.fftReal s.log2n.val (s.memRead .snap)
  let u := s.setMemory .xre (Memory.fill s.size fun k => (x k).1)
  have hre : u.block = s.block.store .xre fun k => (x k).1 := State.block_setMemory_fill (hm .xre).2 _
  have him : (u.setMemory .xim (Memory.fill s.size fun k => (x k).2)).block
      = u.block.store .xim fun k => (x k).2 := State.block_setMemory_fill (s := u) (sp := .xim) (hm .xim).2 _
  rw [hre] at him
  exact congrArg (fun b : Block F32 => { b with specv := true, magv := false }) him

/-- `MAG` of the hardware does what `MAG` of the block does. -/
theorem State.mag_block {s : State} (hm : s.memoryOk) :
    (State.flagsAfterMag { s with freq := Memory.fill s.size fun k => Num.f32.cabs (s.spectrum k) }).block
      = s.block.mag Num.f32 :=
  congrArg (fun b : Block F32 => { b with magv := s.specv })
    (State.block_setMemory_fill (hm .freq).2 fun k => Num.f32.cabs (s.spectrum k))

/-- `TICK` of the hardware does what `TICK` of the block does. -/
theorem State.tick_agrees {s : State} (hwr : s.wr < s.size) (hm : s.memoryOk) :
    s.Agrees (tickWith Num.f32 s) ((s.block.tick Num.f32).1, ⟨true, (s.block.tick Num.f32).2⟩) := by
  let r := s.oscillator Num.f32
  let u : State := { s with triDir := r.2.2, phase := r.2.1 }
  have hpush := State.pushSample_next (s := u) hwr r.1
  have hblock := State.pushSample_block (s := u) (hm .win).1 hpush
  refine ⟨_, congrArg (mapNext _) hpush, ?_, rfl⟩
  exact congrArg (fun b : Block F32 => { b with sOut := b.sOut ++ [r.1] }) hblock

/-- `PUSH` of the hardware does what `PUSH` of the block does. -/
theorem State.push_agrees {s : State} (hwr : s.wr < s.size) (hm : s.memoryOk) (v : F32) :
    s.Agrees (mapNext (State.respond 0) (s.pushSample v)) (s.block.push v, ⟨true, .word 0⟩) := by
  have hpush := State.pushSample_next hwr v
  have hblock := State.pushSample_block (hm .win).1 hpush
  exact ⟨_, congrArg (mapNext _) hpush, hblock, rfl⟩

theorem State.payload_bits (s : State) (r : Reg) : (s.block.payload Num.f32 r).bits = s.payload r := by
  cases r <;> rfl

/-- Every command of the hardware does what it does in the block at `NUM_F32`. -/
theorem exec_agrees (i : Instr) {s : State} (hwr : s.wr < s.size) (hm : s.memoryOk) :
    s.Agrees (exec i s) (s.block.exec Num.f32 i i.data s.port) := by
  cases i
  all_goals
    unfold exec
    refine agrees_accept fun a => ?_
  case rdreg => exact ⟨_, rfl, rfl, by rw [State.payload_bits]; rfl⟩
  case tick => exact State.tick_agrees hwr hm
  case push => exact State.push_agrees hwr hm a
  case snap => exact ⟨_, rfl, State.snap_block hm, rfl⟩
  case fft => exact ⟨_, rfl, State.fft_block hm, rfl⟩
  case mag => exact ⟨_, rfl, State.mag_block hm, rfl⟩
  all_goals exact ⟨_, rfl, rfl, rfl⟩

/-- The block takes an `FD` command's value beside the command, the hardware inside it. -/
theorem Block.exec_withOperand {i j : Instr} {data : Word32} (h : withOperand data (.ok i) = .ok j)
    (p : Port) (b : Block F32) : b.exec Num.f32 i (decR data) p = b.exec Num.f32 j j.data p := by
  cases i <;> cases h <;> rfl

theorem withOperand_ok (data : Word32) (i : Instr) : ∃ j, withOperand data (.ok i) = .ok j := by
  cases i <;> exact ⟨_, rfl⟩

/-- Every request of the hardware does what it does in the block at `NUM_F32`. -/
theorem runRequest_agrees (r : Request) {s : State} (hwr : s.wr < s.size) (hm : s.memoryOk) :
    s.Agrees (runRequest r s) (s.block.request Num.f32 r.cw (decR r.data) s.port) := by
  unfold runRequest Block.request
  rw [decode_eq_withOperand]
  cases decode r.cw 0 with
  | ok i =>
    obtain ⟨j, hj⟩ := withOperand_ok r.data i
    simp only [hj, Block.exec_withOperand hj]
    exact exec_agrees j hwr hm
  | error e => exact s.agrees_reject (opField r.cw) .illegal

/-- The reset state of the hardware is the reset state of the block at `NUM_F32`. -/
theorem State.resetWith_block {c : Cfg} (h : legalCfg c = true) :
    (State.resetWith c).block = Block.reset Num.f32 c h := by
  have hmem : (State.resetWith c).memRead = fun _ _ => Num.f32.ofInt 0 := by
    funext sp i
    rw [Num.f32_ofInt, F32.ofInt_zero]
    cases sp <;> rfl
  have hlog : (State.resetWith c).log2n = ⟨c.log2n, CfgOf.legal_log2n h⟩ :=
    Fin.ext (Nat.mod_eq_of_lt (CfgOf.legal_log2n h))
  unfold State.block
  rw [hmem, hlog]
  rfl

/-- A legal parameter record builds the block it names. -/
theorem Parameters.release_of_legal {p : Parameters} (h : p.legal = true) :
    ∃ b, p.release = .next b ∧ b.size = 2 ^ p.cfg.log2n
      ∧ b.baseFreq = p.cfg.baseFreqDefault ∧ b.amplitude = p.cfg.ampDefault
      ∧ b.sampleRate = p.cfg.sampleRate ∧ b.ampStep = p.cfg.ampStep :=
  ⟨_, Block.release_legal h, rfl, rfl, rfl, rfl, rfl⟩

/-- `CFG` at `NUM_REAL` has `NUMSEL = 1` (10_state.md R34). -/
theorem cfgWordOf_real (n : Fin 16) : cfgWordOf .real n = 0x00000100 ||| BitVec.ofNat 32 n.val := by
  revert n
  decide

/-- `RDREG CFG` of the block over `NUM_REAL`. -/
theorem Block.request_cfg_real (b : Block ℝ) (p : Port) (v : ℝ) : b.request Num.real 0x01000001 v p =
    (b, ⟨true, .word (0x00000100 ||| BitVec.ofNat 32 b.log2n.val)⟩) := by
  rw [← cfgWordOf_real]
  have hcfg : checked (.rdreg 1) p (regOperand 1) = .ok .cfg := rfl
  exact Block.accept_ok (b := b) (body := fun r => (b, b.payload Num.real r)) hcfg

end Sys2Proof.Machine

/-- Settles O60: command by command, over the two admissions, and the two releases of reset. -/
theorem hardwareIsTheBlockAtF32 : Obligations.HardwareIsTheBlockAtF32 :=
  ⟨fun r _ hwr hm => runRequest_agrees r hwr hm,
    fun _ h => (Block.release_legal h).trans (congrArg _ (State.resetWith_block h).symm),
    fun _ => ⟨Block.release_illegal, Parameters.release_of_legal⟩,
    Block.request_cfg_real⟩

end

/-! ## Multiplication by one -/

section
open Sys2Proof Sys2Proof.Machine

namespace Sys2Proof

theorem F32.one_isFinite : F32.isFinite 0x3F800000 = true := by decide

theorem F32.one_sign : F32.sign 0x3F800000 = false := by decide

/-- One is `2^149` units of `2^-149`. -/
theorem F32.one_mag : F32.mag 0x3F800000 = 2 ^ 149 := by decide +kernel

/-- The exact product with one is the datum, which rounding leaves as it is. -/
theorem F32.mul_one {x : F32} (h : x.isFinite = true) : F32.mul x 0x3F800000 = x :=
  calc F32.mul x 0x3F800000
      = F32.pack x.sign (F32.roundMag (x.mag * 2 ^ 149) (2 ^ 149)) := by
        rw [F32.mul_finite h F32.one_isFinite, F32.one_sign, F32.one_mag, Bool.bne_false]
    _ = F32.pack x.sign (x.toNat % 2 ^ 31) := by rw [F32.roundMag_mag h (Nat.two_pow_pos 149)]
    _ = x := F32.pack_self x

end Sys2Proof

/-- Settles O57: the product is exact before rounding, and rounding is exact on a finite datum. -/
theorem multiplicationByOneIsExact : Obligations.MultiplicationByOneIsExact :=
  ⟨rfl, fun _ h => F32.mul_one h⟩

end

/-! ## The state after reset -/

section
open Sys2Proof Sys2Proof.Machine

namespace Sys2Proof.Machine

@[simp] theorem Num.f32_isFinite (a : F32) : Num.f32.isFinite a = a.isFinite := rfl

/-- The legal parameters, value by value (00_scope.md R7). -/
theorem legalCfg_iff {c : Cfg} : legalCfg c = true ↔
    c.log2n ≤ 15
      ∧ (c.sampleRate.isFinite = true ∧ F32.lt 0 c.sampleRate = true)
      ∧ (c.baseFreqDefault.isFinite = true ∧ F32.lt 0 c.baseFreqDefault = true)
      ∧ (c.ampDefault.isFinite = true ∧ F32.le 0 c.ampDefault = true)
      ∧ (c.ampStep.isFinite = true ∧ F32.lt 0 c.ampStep = true) := by
  simp [legalCfg, CfgOf.legal, Num.gt, Num.ge, F32.ofInt_zero, and_assoc]

theorem legalCfg_default : legalCfg Cfg.default = true := by decide +kernel

@[simp] theorem State.resetWith_memRead (c : Cfg) (sp : Space) (i : Nat) :
    (State.resetWith c).memRead sp i = Memory.blank := by cases sp <;> rfl

/-- After reset the oscillator is tuned to the base frequency itself (10_state.md R23, R40). -/
theorem State.resetWith_targetFreq {c : Cfg} (h : legalCfg c = true) :
    (State.resetWith c).targetFreq = c.baseFreqDefault := by
  obtain ⟨-, -, ⟨hbase, -⟩, -⟩ := legalCfg_iff.1 h
  exact F32.mul_one hbase

theorem State.resetWith_log2n {c : Cfg} (h : legalCfg c = true) :
    (State.resetWith c).log2n.val = c.log2n :=
  Nat.mod_eq_of_lt (CfgOf.legal_log2n h)

/-- `CFG` at `NUM_F32` is `LOG2N`, with `NUMSEL = 0` (10_state.md R34). -/
theorem cfgWordOf_f32 (n : Fin 16) : cfgWordOf .f32 n = BitVec.ofNat 32 n.val := by
  revert n
  decide

theorem State.resetWith_cfgWord {c : Cfg} (h : legalCfg c = true) :
    (State.resetWith c).cfgWord = BitVec.ofNat 32 c.log2n := by
  rw [← State.resetWith_log2n h]
  exact cfgWordOf_f32 _

/-- With no error recorded, `ERR` meets its part of the invariant. -/
theorem State.errOk_of_zero {s : State} (h : s.err = 0) : s.errOk := by
  rw [State.errOk, h]
  decide

/-- The state after reset meets the invariant, for every legal instance. -/
theorem State.resetWith_inv {c : Cfg} (h : legalCfg c = true) : (State.resetWith c).Inv := by
  obtain ⟨-, hrate, -, ⟨-, hamp⟩, hstep⟩ := legalCfg_iff.1 h
  exact {
    ring := ⟨Nat.two_pow_pos _, Nat.zero_le _, fun _ => ⟨rfl, fun i _ => State.resetWith_memRead c .win i⟩⟩
    memory := State.resetWith_memory_wf c
    err := State.errOk_of_zero rfl
    tuned := rfl
    flags := ⟨fun _ i => State.resetWith_memRead c .snap i, fun hs => absurd hs Bool.false_ne_true,
      fun hm => absurd hm Bool.false_ne_true⟩
    levels := ⟨hamp, hrate, hstep⟩
    ports := ⟨fun hr => absurd hr Bool.false_ne_true, fun he => absurd rfl he⟩ }

end Sys2Proof.Machine

/-- Settles O47: each part of the invariant at the reset values; the levels are those of a legal `CFG`. -/
theorem theInvariantHoldsAfterReset : Obligations.TheInvariantHoldsAfterReset :=
  ⟨State.resetWith_inv legalCfg_default, fun _ h => State.resetWith_inv h⟩

/-- Settles O49: the fields of the reset state; the target frequency by the exact product with one. -/
theorem resetLeavesTheResetState : Obligations.ResetLeavesTheResetState := by
  refine ⟨fun c h => ?_, rfl, State.resetWith_targetFreq legalCfg_default, rfl, rfl, F32.ofInt_zero, rfl⟩
  exact ⟨rfl, F32.ofInt_zero, rfl, rfl, rfl, State.resetWith_targetFreq h, rfl, rfl, rfl, rfl, rfl, rfl, rfl,
    rfl, rfl, State.resetWith_memRead c, rfl, State.resetWith_log2n h, rfl, State.resetWith_cfgWord h⟩

end

/-! ## The warm window -/

section
open Sys2Proof Sys2Proof.Machine

namespace Sys2Proof.Machine

/-- A command keeps `FILL` or, by a push, counts it up to `N` (41_sample_window_buffer.md R120). -/
theorem exec_fill {i : Instr} {s t : State} (h : exec i s = .next t) :
    t.fill = s.fill ∨ t.fill = min (s.fill + 1) s.size := by
  cases i
  all_goals
    unfold exec at h
    obtain ⟨code, rfl⟩ | ⟨-, a, -, ha⟩ := accept_eq_next h
    · exact .inl rfl
  case tick | push =>
    obtain ⟨u, hu, rfl⟩ := mapNext_eq_next ha
    obtain ⟨-, rfl⟩ := State.pushSample_eq_next hu
    exact .inr rfl
  all_goals
    cases ha
    exact .inl rfl

/-- A request keeps a warm window warm (70_reset_and_hazards.md R241). -/
theorem runRequest_keeps_warm {r : Request} {s t : State} (hs : s.fill = s.size)
    (h : runRequest r s = .next t) : t.fill = t.size := by
  have hsize : t.size = s.size := congrArg (fun n : Fin 16 => 2 ^ n.val) (runRequest_served h).log2n
  obtain ⟨i, -, hi⟩ | ⟨-, rfl⟩ := runRequest_eq_next h
  · rcases exec_fill hi with hf | hf <;> omega
  · exact hs

/-- While `rst` is asserted no request is served (70_reset_and_hazards.md R230). -/
theorem serve_under_reset {p : Port} {s t : State} (h : serve p s = .next t) (hr : s.rst = true) : t = s :=
  (Host.Outcome.next.inj ((if_pos hr).symm.trans h)).symm

/-- While `rst` is asserted no request is accepted (70_reset_and_hazards.md R230). -/
theorem present_under_reset {p : Port} {r : Request} {again s t : State}
    (h : present p r again s = .next t) (hr : s.rst = true) : t = s :=
  (Host.Outcome.next.inj ((if_pos hr).symm.trans h)).symm

/-- While `rst` is asserted, a step that releases no reset passes over the next event or asserts `rst`
again. -/
theorem step_under_reset {s t : State} (hr : s.rst = true)
    (hn : ∀ c rest, s.schedule ≠ .releaseReset c :: rest) (h : step s = .next t) :
    ∃ sched n, let u := { s with schedule := sched, arb := n }
      t = u ∨ t = u.assertReset := by
  cases hs : s.schedule with
  | nil =>
    cases hg : s.granted with
    | none =>
      rw [step_idle hs hg] at h
      exact ⟨s.schedule, s.arb, .inl (Host.Outcome.next.inj h).symm⟩
    | some p =>
      rw [step_granted hs hg] at h
      exact ⟨s.schedule, s.arb + 1, .inl (serve_under_reset h hr)⟩
  | cons e rest =>
    refine ⟨rest, s.arb, ?_⟩
    cases e with
    | issue p r =>
      rw [step_issue hs] at h
      exact .inl (present_under_reset h hr)
    | serve p =>
      rw [step_serve hs] at h
      exact .inl (serve_under_reset h hr)
    | assertReset =>
      rw [step, advance, hs] at h
      exact .inr (Host.Outcome.next.inj h).symm
    | releaseReset c => exact absurd hs (hn c rest)

/-- Everything a step can do whose next event is no release of reset. `u` is the state with the schedule or
the arbitration counter moved on. -/
theorem step_eq_next_of_no_release {s t : State} (hn : ∀ c rest, s.schedule ≠ .releaseReset c :: rest)
    (h : step s = .next t) :
    ∃ sched n, let u := { s with schedule := sched, arb := n }
      t = u
      ∨ (∃ p r, runRequest r (u.take p) = .next t)
      ∨ (∃ p r, t = u.setRequest p r)
      ∨ t = u.assertReset := by
  obtain ⟨sched, n, hu | ⟨p, r, -, -, hrun⟩ | ⟨p, r, -, -, hset⟩ | hassert | ⟨c, hr, -, -⟩⟩ := step_eq_next h
  · exact ⟨sched, n, .inl hu⟩
  · exact ⟨sched, n, .inr (.inl ⟨p, r, hrun⟩)⟩
  · exact ⟨sched, n, .inr (.inr (.inl ⟨p, some r, hset⟩))⟩
  · exact ⟨sched, n, .inr (.inr (.inr hassert))⟩
  · obtain ⟨sched', n', hu | hassert⟩ := step_under_reset (s := s) hr hn h
    · exact ⟨sched', n', .inl hu⟩
    · exact ⟨sched', n', .inr (.inr (.inr hassert))⟩

/-- A step that releases no reset keeps the window size and, once warm, the window warm
(70_reset_and_hazards.md R241). -/
theorem step_keeps_warm {s t : State} (hs : s.fill = s.size)
    (hn : ∀ c rest, s.schedule ≠ .releaseReset c :: rest) (h : step s = .next t) :
    t.fill = t.size ∧ t.log2n = s.log2n := by
  obtain ⟨sched, n, rfl | ⟨p, r, hrun⟩ | ⟨p, r, rfl⟩ | rfl⟩ := step_eq_next_of_no_release hn h
  · exact ⟨hs, rfl⟩
  · exact ⟨runRequest_keeps_warm (by simpa [State.size] using hs) hrun,
      (runRequest_served hrun).log2n.trans (State.take_log2n _ _)⟩
  · exact ⟨by simpa [State.size] using hs, State.setRequest_log2n _ _ _⟩
  · exact ⟨hs, rfl⟩

end Sys2Proof.Machine

/-- Settles O53: a push into a full window counts no further, and nothing but a release of reset lowers
`FILL`. -/
theorem warmStaysWarm : Obligations.WarmStaysWarm := by
  intro s t hs h hn
  obtain ⟨hfill, hlog⟩ := step_keeps_warm hs hn h
  exact ⟨hfill, by rw [State.size, hlog], beq_iff_eq.2 hfill⟩

end

/-! ## Serialised words -/

section
open Sys2Proof Sys2Proof.Machine

namespace Sys2Proof

/-- Byte `k` of a serialised word is bits `8k+7` to `8k` (20_memory.md R52). -/
theorem wordBytes_getElem? (w : Word32) {k : Nat} (h : k < 4) :
    (wordBytes w)[k]? = some (w.extractLsb' (8 * k) 8) := by
  interval_cases k <;> rfl

/-- Four bytes that serialise a word carry it. -/
theorem bytesWord_of_wordBytes {w : Word32} {a b c d : Byte} (h : wordBytes w = [a, b, c, d]) :
    bytesWord a b c d = w := by
  cases h
  exact bytesWord_bytes w

end Sys2Proof

/-- Settles O5: the bytes by their index, and the word assembled from its own four bytes. -/
theorem serialisedWordsAreLittleEndian : Obligations.SerialisedWordsAreLittleEndian :=
  fun w _ hk => ⟨wordBytes_getElem? w hk, fun _ _ _ _ h => bytesWord_of_wordBytes h⟩

end

/-! ## The service of a port: decoding and execution -/

section
open Sys2Proof Sys2Proof.Machine

namespace Sys2Proof.Machine

/-- A request that decodes executes the command (30_encoding.md R79). -/
theorem runRequest_of_ok {r : Request} {i : Instr} (h : decode r.cw r.data = .ok i) (s : State) :
    runRequest r s = exec i s := by
  rw [runRequest, h]

/-- A request that encodes no command is rejected (60_exceptions.md R203). -/
theorem runRequest_of_error {r : Request} {e : DecodeError} (h : decode r.cw r.data = .error e) (s : State) :
    runRequest r s = .next (s.reject (opField r.cw) .illegal) := by
  rw [runRequest, h]

/-- A step whose next event serves a port that holds a request runs it, with `rst` low. -/
theorem step_serve_request {s : State} {p : Port} {rest : List Event} {r : Request}
    (hs : s.schedule = .serve p :: rest) (hr : s.rst = false) (hq : s.request p = some r) :
    step s = runRequest r (State.take p { s with schedule := rest }) :=
  (step_serve hs).trans (serve_request (s := { s with schedule := rest }) hr hq)

/-- Taking a placed request undoes the placing: the request it was placed over is taken with it, and `rst`
is low. -/
theorem State.take_placeRequest (r : Request) (s : State) :
    State.take (homePort r.cw) { s.placeRequest r with schedule := s.schedule }
      = State.take (homePort r.cw) { s with rst := false } := by
  unfold State.placeRequest
  cases homePort r.cw <;> rfl

/-- A placed request is run by the very next step (log 1). -/
theorem step_placeRequest (r : Request) (s : State) :
    step (s.placeRequest r) = runRequest r (State.take (homePort r.cw) { s with rst := false }) := by
  have hq : (s.placeRequest r).request (homePort r.cw) = some r :=
    State.setRequest_request_same (homePort r.cw) (some r) s
  rw [step_serve_request rfl rfl hq, State.take_placeRequest]

end Sys2Proof.Machine

/-- Settles O6: the step runs the request of the port it serves, and a table word is such a request. -/
theorem stepExecutesTheDecodedCommand : Obligations.StepExecutesTheDecodedCommand := by
  refine ⟨fun s p rest r i hs hr hq hd => ?_, fun s p rest r e hs hr hq hd => ?_, fun s nbits w i hw => ?_⟩
  · exact (step_serve_request hs hr hq).trans (runRequest_of_ok hd _)
  · exact (step_serve_request hs hr hq).trans (runRequest_of_error hd _)
  · have hd := decodeTableWord_eq_some hw
    rw [State.withFetchWord, step_placeRequest, runRequest_of_ok (r := ⟨tableCw w, tableData nbits w⟩) hd]

end

/-! ## The single-writer table -/

section
open Sys2Proof Sys2Proof.Machine

namespace Sys2Proof.Machine

/-- The single-writer table without `ERR` (20_memory.md R60): what the service of a request on the port in
service keeps of the state that the other ports write, and of the parameters. -/
structure State.KeepsOthers (s t : State) : Prop where
  synthesis : s.port ≠ .S → sameSynthesis s t
  control : s.port ≠ .C → sameControl s t
  analysis : s.port ≠ .A → sameAnalysis s t
  parameters : sameParameters s t

section
variable {s t : State}

theorem State.KeepsOthers.of_port_C (hp : s.port = .C) (hs : sameSynthesis s t) (ha : sameAnalysis s t)
    (hf : sameParameters s t) : s.KeepsOthers t :=
  ⟨fun _ => hs, fun h => absurd hp h, fun _ => ha, hf⟩

theorem State.KeepsOthers.of_port_S (hp : s.port = .S) (hc : sameControl s t) (ha : sameAnalysis s t)
    (hf : sameParameters s t) : s.KeepsOthers t :=
  ⟨fun h => absurd hp h, fun _ => hc, fun _ => ha, hf⟩

theorem State.KeepsOthers.of_port_A (hp : s.port = .A) (hs : sameSynthesis s t) (hc : sameControl s t)
    (hf : sameParameters s t) : s.KeepsOthers t :=
  ⟨fun _ => hs, fun _ => hc, fun h => absurd hp h, hf⟩

end

/-- A rejection writes none of the state that the single-writer table gives to a port. -/
theorem State.reject_keepsOthers (op : BitVec 8) (code : ErrCode) (s : State) :
    s.KeepsOthers (s.reject op code) :=
  ⟨fun _ => ⟨rfl, rfl, rfl, rfl, rfl, rfl⟩, fun _ => ⟨rfl, rfl, rfl, rfl, rfl⟩,
    fun _ => ⟨rfl, rfl, rfl, rfl, rfl, rfl, rfl⟩, ⟨rfl, rfl, rfl⟩⟩

section
variable {α : Type} {i : Instr} {operand : Except ErrCode α} {body : α → State → Result} {s t : State}

/-- An admitted command keeps the single-writer table if its body does on a port that may issue it. -/
theorem accept_keepsOthers (h : accept i operand body s = .next t)
    (hb : mayIssue i s.port = true → ∀ a, body a s = .next t → s.KeepsOthers t) : s.KeepsOthers t := by
  obtain ⟨code, rfl⟩ | ⟨hp, a, -, ha⟩ := accept_eq_next h
  · exact s.reject_keepsOthers i.opcode code
  · exact hb hp a ha

/-- A rejection records an error only where `ERR` holds none (60_exceptions.md R202). -/
theorem reject_errKept (i : Instr) (code : ErrCode) (s : State) : errKept i s (s.reject i.opcode code) := by
  by_cases h : errCode s.err = 0
  · exact .inr ⟨h, code, rfl⟩
  · exact .inl (if_neg h)

/-- An admitted command changes `ERR` by a rejection only if its body leaves `ERR` unchanged. -/
theorem accept_errKept (h : accept i operand body s = .next t)
    (hb : ∀ a, body a s = .next t → t.err = s.err) : errKept i s t := by
  obtain ⟨code, rfl⟩ | ⟨-, a, -, ha⟩ := accept_eq_next h
  · exact reject_errKept i code s
  · exact .inl (hb a ha)

end

/-- Every command keeps the single-writer table: it is admitted only on the port that owns what it writes,
and a command admitted on every port writes nothing but its response. -/
theorem exec_keepsOthers {i : Instr} {s t : State} (h : exec i s = .next t) : s.KeepsOthers t := by
  cases i
  all_goals
    unfold exec at h
    refine accept_keepsOthers h fun hp _ hb => ?_
  case rdreg =>
    cases hb
    exact ⟨fun _ => ⟨rfl, rfl, rfl, rfl, rfl, rfl⟩, fun _ => ⟨rfl, rfl, rfl, rfl, rfl⟩,
      fun _ => ⟨rfl, rfl, rfl, rfl, rfl, rfl, rfl⟩, ⟨rfl, rfl, rfl⟩⟩
  case tick | push =>
    obtain ⟨u, hu, rfl⟩ := mapNext_eq_next hb
    obtain ⟨-, rfl⟩ := State.pushSample_eq_next hu
    exact .of_port_S (beq_iff_eq.1 hp) ⟨rfl, rfl, rfl, rfl, rfl⟩ ⟨rfl, rfl, rfl, rfl, rfl, rfl, rfl⟩
      ⟨rfl, rfl, rfl⟩
  case snap | fft | mag | rdsnap | rdre | rdim | rdbin =>
    cases hb
    exact .of_port_A (beq_iff_eq.1 hp) ⟨rfl, rfl, rfl, rfl, rfl, rfl⟩ ⟨rfl, rfl, rfl, rfl, rfl⟩
      ⟨rfl, rfl, rfl⟩
  case setbase | trup | trdn | note | wave | ampup | ampdn | clrerr =>
    cases hb
    exact .of_port_C (beq_iff_eq.1 hp) ⟨rfl, rfl, rfl, rfl, rfl, rfl⟩
      ⟨rfl, rfl, rfl, rfl, rfl, rfl, rfl⟩ ⟨rfl, rfl, rfl⟩

/-- Every command but `CLRERR` changes `ERR` by a rejection only. -/
theorem exec_errKept {i : Instr} {s t : State} (hi : i ≠ .clrerr) (h : exec i s = .next t) :
    errKept i s t := by
  cases i
  case clrerr => exact absurd rfl hi
  all_goals
    unfold exec at h
    refine accept_errKept h fun _ hb => ?_
  case tick | push =>
    obtain ⟨u, hu, rfl⟩ := mapNext_eq_next hb
    obtain ⟨-, rfl⟩ := State.pushSample_eq_next hu
    rfl
  all_goals
    cases hb
    rfl

/-- `CLRERR` is rejected or, on port `C`, clears `ERR` (44_control_surface.md R179). -/
theorem exec_clrerr_eq_next {s t : State} (h : exec .clrerr s = .next t) :
    (∃ code, t = s.reject Instr.clrerr.opcode code) ∨ (s.port = .C ∧ t = s.clearErr.respond 0) := by
  unfold exec at h
  obtain hr | ⟨hp, -, -, hb⟩ := accept_eq_next h
  · exact .inl hr
  · exact .inr ⟨beq_iff_eq.1 hp, (Host.Outcome.next.inj hb).symm⟩

/-- The writers of `ERR` (20_memory.md R60): a command keeps it, is rejected, or clears it on port `C`. -/
theorem exec_err {i : Instr} {s t : State} (h : exec i s = .next t) :
    t.err = s.err ∨ (∃ code, t = s.reject i.opcode code) ∨ (s.port = .C ∧ t.err = 0) := by
  by_cases hi : i = .clrerr
  · subst hi
    obtain hr | ⟨hp, rfl⟩ := exec_clrerr_eq_next h
    · exact .inr (.inl hr)
    · exact .inr (.inr ⟨hp, rfl⟩)
  · exact (exec_errKept hi h).imp_right fun ⟨_, hr⟩ => .inl hr

/-- Every request keeps the single-writer table, executed or rejected. -/
theorem runRequest_keepsOthers {r : Request} {s t : State} (h : runRequest r s = .next t) :
    s.KeepsOthers t := by
  obtain ⟨i, -, hi⟩ | ⟨-, rfl⟩ := runRequest_eq_next h
  · exact exec_keepsOthers hi
  · exact s.reject_keepsOthers _ _

/-- The writers of `ERR`, for every request. -/
theorem runRequest_err {r : Request} {s t : State} (h : runRequest r s = .next t) :
    t.err = s.err ∨ (∃ code, t = s.reject (opField r.cw) code) ∨ (s.port = .C ∧ t.err = 0) := by
  obtain ⟨i, hd, hi⟩ | ⟨-, rfl⟩ := runRequest_eq_next h
  · rw [(decode_eq_ok hd).1]
    exact exec_err hi
  · exact .inr (.inl ⟨_, rfl⟩)

end Sys2Proof.Machine

/-- Settles O43: the table for every request, the interface kept by its service, and the writers of `ERR`. -/
theorem eachPortWritesOnlyItsState : Obligations.EachPortWritesOnlyItsState := by
  intro r s t h
  obtain ⟨hsyn, hctl, hana, hpar⟩ := runRequest_keepsOthers h
  exact ⟨hsyn, hctl, hana, hpar, (runRequest_served h).interface, runRequest_err h⟩

namespace Sys2Proof.Machine

/-! ### What port `A` analyses -/

theorem sameAnalysis.trans {s t u : State} (h : sameAnalysis s t) (h' : sameAnalysis t u) :
    sameAnalysis s u := by
  obtain ⟨h1, h2, h3, h4, h5, h6, h7⟩ := h
  obtain ⟨k1, k2, k3, k4, k5, k6, k7⟩ := h'
  exact ⟨k1.trans h1, k2.trans h2, k3.trans h3, k4.trans h4, k5.trans h5, k6.trans h6, k7.trans h7⟩

/-- With the analysis state, every memory but the window is the same. -/
theorem sameAnalysis.memory {s t : State} (h : sameAnalysis s t) {sp : Space} (hsp : sp ≠ .win) :
    t.memory sp = s.memory sp := by
  obtain ⟨hsnap, hre, him, hfreq, -⟩ := h
  cases sp with
  | win => exact absurd rfl hsp
  | snap => exact hsnap
  | xre => exact hre
  | xim => exact him
  | freq => exact hfreq

/-- A list of commands answers a next state only through one after its first command. -/
theorem execAll_cons_eq_next {p : Port} {i : Instr} {rest : List (Port × Instr)} {s t : State}
    (h : execAll ((p, i) :: rest) s = .next t) :
    ∃ u, exec i { s with port := p } = .next u ∧ execAll rest u = .next t := by
  unfold execAll at h
  split at h
  · exact ⟨_, ‹_›, h⟩
  · cases h
  · cases h

/-- Commands of ports `S` and `C` keep the analysis state (20_memory.md R58). -/
theorem execAll_sameAnalysis {cmds : List (Port × Instr)} : ∀ {s t : State},
    (∀ c ∈ cmds, c.1 ≠ .A) → execAll cmds s = .next t → sameAnalysis s t := by
  induction cmds with
  | nil =>
    intro s t _ h
    cases h
    exact ⟨rfl, rfl, rfl, rfl, rfl, rfl, rfl⟩
  | cons c rest ih =>
    intro s t hp h
    obtain ⟨hc, hrest⟩ := List.forall_mem_cons.1 hp
    obtain ⟨u, hu, ht⟩ := execAll_cons_eq_next h
    have hfirst : sameAnalysis s u := (exec_keepsOthers hu).analysis hc
    exact hfirst.trans (ih hrest ht)

end Sys2Proof.Machine

/-- Settles O44, by induction on the commands: none of them is on the port that writes the analysis state. -/
theorem snapshotIsIsolated : Obligations.SnapshotIsIsolated := by
  intro cmds s t hp h
  have hana := execAll_sameAnalysis hp h
  exact ⟨hana, fun sp k hsp => congrArg (fun m : Memory => m.read k) (hana.memory hsp)⟩

end

/-! ## Encoding and decoding -/

section
open Sys2Proof Sys2Proof.Machine

namespace Sys2Proof

theorem decodeFA_of_fields {cw : Word32} {command : BitVec 16 → Instr} {a : BitVec 16}
    (hrsv : rsvField cw = 0) (harg : argField cw = a) : decodeFA cw command = .ok (command a) := by
  rw [decodeFA, if_pos hrsv, harg]

theorem decodeBare_of_fields {cw : Word32} {command : Instr} (hrsv : rsvField cw = 0)
    (harg : argField cw = 0) : decodeBare cw command = .ok command := by
  rw [decodeBare, if_pos hrsv, if_pos harg]

/-- A word with the fields of a command decodes to it (30_encoding.md R71, R76): the converse of
`decode_eq_ok`. -/
theorem decode_of_fields {cw data : Word32} {i : Instr} (hop : opField cw = i.opcode)
    (hrsv : rsvField cw = 0) (harg : argField cw = i.arg) (hdata : i.format = .fd → i.data = data) :
    decode cw data = .ok i := by
  unfold decode
  rw [hop]
  cases i
  case rdreg | note | wave | rdsnap | rdre | rdim | rdbin => exact decodeFA_of_fields hrsv harg
  case setbase | push =>
    rw [← hdata rfl]
    exact decodeBare_of_fields hrsv harg
  all_goals exact decodeBare_of_fields hrsv harg

/-- A command that a request decodes to encodes to the command word (30_encoding.md R71). -/
theorem encode_of_decode {cw data : Word32} {i : Instr} (h : decode cw data = .ok i) :
    (encode i).1 = cw := by
  obtain ⟨hop, hrsv, harg, -⟩ := decode_eq_ok h
  calc (encode i).1 = opField cw ++ rsvField cw ++ argField cw := by rw [hop, hrsv, harg]; rfl
    _ = cw := word_of_fields cw

end Sys2Proof

/-- Settles O1: the encoded word has the command's fields, and a word with those fields decodes to it. -/
theorem decodeOfEncode : Obligations.DecodeOfEncode := by
  intro i
  obtain ⟨hop, hrsv, harg⟩ := encode_fields i
  exact decode_of_fields hop hrsv harg fun _ => rfl

/-- Settles O2: a decoded word is assembled from the fields of the command. -/
theorem encodeOfDecode : Obligations.EncodeOfDecode := by
  intro cw data i h
  obtain ⟨-, -, -, hdata⟩ := decode_eq_ok h
  exact ⟨encode_of_decode h, hdata⟩

/-- Settles O4: each word is closed, so its decoding is computed. -/
theorem wordsOfTheOpcodeMapDecode : Obligations.WordsOfTheOpcodeMapDecode := by
  unfold Obligations.WordsOfTheOpcodeMapDecode
  decide

end

/-! ## The decode procedure -/

section
open Sys2Proof Sys2Proof.Machine

namespace Sys2Proof

/-- A datum is finite unless bits 30:23 are all ones (60_exceptions.md R207). -/
theorem F32.isFinite_iff (v : F32) : v.isFinite = true ↔ v.extractLsb' 23 8 ≠ 0xFF#8 := by
  simp [F32.isFinite, F32.expField, ← BitVec.toNat_inj]

end Sys2Proof

namespace Sys2Proof.Machine

/-! ### Which words are legal -/

theorem decodeFA_eq_error {cw : Word32} {command : BitVec 16 → Instr} {e : DecodeError}
    (h : decodeFA cw command = .error e) : rsvField cw ≠ 0 := fun hrsv => by
  rw [decodeFA_of_fields hrsv rfl] at h
  cases h

theorem decodeBare_eq_error {cw : Word32} {command : Instr} {e : DecodeError}
    (h : decodeBare cw command = .error e) : rsvField cw ≠ 0 ∨ argField cw ≠ 0 := by
  by_contra hn
  obtain ⟨hrsv, harg⟩ := not_or.1 hn
  rw [decodeBare_of_fields (not_not.1 hrsv) (not_not.1 harg)] at h
  cases h

theorem illegalWord_of_decodeBare_error {cw : Word32} {command : Instr} {e : DecodeError} {op : BitVec 8}
    (hop : opField cw = op) (hno : op.toNat ∉ argOpcodes) (h : decodeBare cw command = .error e) :
    illegalWord cw :=
  .inr ((decodeBare_eq_error h).imp_right fun harg => ⟨hop ▸ hno, harg⟩)

/-- A word that encodes no command fails the encoding check (60_exceptions.md R203): by its format where the
opcode is in the map, else by its opcode, the last case of `decode`. -/
theorem illegalWord_of_decode_error {cw data : Word32} {e : DecodeError}
    (h : decode cw data = .error e) : illegalWord cw := by
  unfold decode at h
  split at h
  case h_1 | h_5 | h_6 | h_15 | h_16 | h_17 | h_18 => exact .inr (.inl (decodeFA_eq_error h))
  case h_19 =>
    refine .inl fun hmem => ?_
    have hop := List.mem_map_of_mem (f := BitVec.ofNat 8) hmem
    rw [BitVec.ofNat_toNat, BitVec.setWidth_eq] at hop
    simp_all [opcodes]
  all_goals exact illegalWord_of_decodeBare_error ‹_› (by decide) h

theorem opcode_mem_opcodes (i : Instr) : i.opcode.toNat ∈ opcodes := by
  cases i <;> exact of_decide_eq_true rfl

/-- A command whose opcode is of format `F0` or `FD` has no argument (30_encoding.md R71). -/
theorem arg_eq_zero_of_not_mem_argOpcodes {i : Instr} (h : i.opcode.toNat ∉ argOpcodes) : i.arg = 0 := by
  cases i
  case rdreg | note | wave | rdsnap | rdre | rdim | rdbin => exact absurd (of_decide_eq_true rfl) h
  all_goals rfl

/-- A word that encodes a command passes the encoding check. -/
theorem not_illegalWord_of_decode_ok {cw data : Word32} {i : Instr} (h : decode cw data = .ok i) :
    ¬ illegalWord cw := by
  obtain ⟨hop, hrsv, harg, -⟩ := decode_eq_ok h
  rw [illegalWord, hop, hrsv, harg]
  rintro (hno | hne | ⟨hno, hne⟩)
  · exact hno (opcode_mem_opcodes i)
  · exact hne rfl
  · exact hne (arg_eq_zero_of_not_mem_argOpcodes hno)

/-! ### The checks on a decoded command -/

/-- The port check on the opcode number is the table of port rights (30_encoding.md R76, R78). -/
theorem rightPort_iff_mayIssue (i : Instr) (p : Port) :
    rightPort i.opcode.toNat p ↔ mayIssue i p = true := by
  cases i <;> simp [Instr.opcode, mayIssue, rightPort]

/-- The code that a check raises, if it fails. -/
def raisedCode {α : Type} : Except ErrCode α → Option ErrCode
  | .ok _ => none
  | .error code => some code

theorem raisedCode_eq_none {α : Type} {x : Except ErrCode α} (h : raisedCode x = none) : ∃ a, x = .ok a := by
  cases x with
  | ok a => exact ⟨a, rfl⟩
  | error code => cases h

theorem raisedCode_eq_some {α : Type} {x : Except ErrCode α} {code : ErrCode} (h : raisedCode x = some code) :
    x = .error code := by
  cases x with
  | ok a => cases h
  | error c => exact congrArg _ (Option.some.inj h)

/-- The register numbers are 0 to 0x0D (10_state.md R37). -/
theorem Reg.ofNumber_eq_none {n : Nat} : Reg.ofNumber n = none ↔ 0x0D < n := by
  refine ⟨fun h => ?_, fun h => ?_⟩
  · by_contra hn
    interval_cases n <;> cases h
  · obtain ⟨k, rfl⟩ : ∃ k, n = k + 14 := ⟨n - 14, by omega⟩
    rfl

/-- The waveform numbers are 0 to 3 (10_state.md R21). -/
theorem Wave.ofNumber_eq_none {n : Nat} : Wave.ofNumber n = none ↔ 3 < n := by
  refine ⟨fun h => ?_, fun h => ?_⟩
  · by_contra hn
    interval_cases n <;> cases h
  · obtain ⟨k, rfl⟩ : ∃ k, n = k + 4 := ⟨n - 4, by omega⟩
    rfl

theorem raisedCode_regOperand (a : BitVec 16) :
    raisedCode (regOperand a) = if 0x0D < a.toNat then some .arg else none := by
  rw [regOperand]
  cases hr : Reg.ofNumber a.toNat with
  | none => exact (if_pos (Reg.ofNumber_eq_none.1 hr)).symm
  | some r => exact (if_neg fun h => by simp [Reg.ofNumber_eq_none.2 h] at hr).symm

theorem raisedCode_semitoneOperand (a : BitVec 16) :
    raisedCode (semitoneOperand a) = if 11 < a.toNat then some .arg else none := by
  unfold semitoneOperand
  split
  · exact (if_neg (by omega)).symm
  · exact (if_pos (by omega)).symm

theorem raisedCode_waveOperand (a : BitVec 16) :
    raisedCode (waveOperand a) = if 3 < a.toNat then some .arg else none := by
  rw [waveOperand]
  cases hw : Wave.ofNumber a.toNat with
  | none => exact (if_pos (Wave.ofNumber_eq_none.1 hw)).symm
  | some w => exact (if_neg fun h => by simp [Wave.ofNumber_eq_none.2 h] at hw).symm

theorem raisedCode_indexOperand (n : Nat) (a : BitVec 16) :
    raisedCode (indexOperand n a) = if n ≤ a.toNat then some .index else none := by
  unfold indexOperand
  split
  · exact (if_neg (by omega)).symm
  · exact (if_pos (by omega)).symm

theorem raisedCode_realOperand (v : F32) :
    raisedCode (realOperand v) = if v.extractLsb' 23 8 = 0xFF#8 then some .nonfinite else none := by
  have hfinite : Num.f32.isFinite v = true ↔ v.extractLsb' 23 8 ≠ 0xFF#8 := F32.isFinite_iff v
  unfold realOperand Num.operand
  split
  · exact (if_neg (hfinite.1 ‹_›)).symm
  · exact (if_pos (not_not.1 (mt hfinite.2 ‹_›))).symm

/-- The code that the operand of a command raises in an instance of window size `n`, if it is bad: the checks
that `exec` applies (30_encoding.md R79 steps 3 and 4). -/
def operandCode (n : Nat) : Instr → Option ErrCode
  | .rdreg a => raisedCode (regOperand a)
  | .note a => raisedCode (semitoneOperand a)
  | .wave a => raisedCode (waveOperand a)
  | .rdsnap k | .rdre k | .rdim k | .rdbin k => raisedCode (indexOperand n k)
  | .setbase v | .push v => raisedCode (realOperand v)
  | .trup | .trdn | .ampup | .ampdn | .clrerr | .tick | .snap | .fft | .mag => raisedCode noOperand

/-- The code that a command raises on port `p`, if it is not admitted (30_encoding.md R79 steps 2 to 4). -/
def failingCheck (i : Instr) (p : Port) (n : Nat) : Option ErrCode :=
  if mayIssue i p then operandCode n i else some .port

theorem raisedCode_checked {α : Type} (i : Instr) (p : Port) (operand : Except ErrCode α) :
    raisedCode (checked i p operand) = if mayIssue i p then raisedCode operand else some .port := by
  unfold checked
  split <;> rfl

@[simp] theorem raisedCode_noOperand : raisedCode noOperand = none := rfl

/-- The operand checks of the decode procedure, read off the opcode number and the words of a request, are
those of the command that `exec` makes. -/
theorem operandCode_eq {i : Instr} {data : Word32} (hdata : i.format = .fd → i.data = data) (n : Nat) :
    operandCode n i =
      if (i.opcode.toNat = 0x01 ∧ 0x0D < i.arg.toNat) ∨ (i.opcode.toNat = 0x13 ∧ 11 < i.arg.toNat)
        ∨ (i.opcode.toNat = 0x14 ∧ 3 < i.arg.toNat) then some .arg
      else if (i.opcode.toNat = 0x33 ∨ i.opcode.toNat = 0x34 ∨ i.opcode.toNat = 0x35
        ∨ i.opcode.toNat = 0x36) ∧ n ≤ i.arg.toNat then some .index
      else if (i.opcode.toNat = 0x10 ∨ i.opcode.toNat = 0x21) ∧ data.extractLsb' 23 8 = 0xFF#8 then
        some .nonfinite
      else none := by
  cases i
  case setbase | push =>
    obtain rfl := hdata rfl
    simp [operandCode, Instr.opcode, Instr.data, raisedCode_realOperand]
  case rdreg | note | wave =>
    simp [operandCode, Instr.opcode, Instr.arg, raisedCode_regOperand, raisedCode_semitoneOperand,
      raisedCode_waveOperand]
  case rdsnap | rdre | rdim | rdbin =>
    simp [operandCode, Instr.opcode, Instr.arg, raisedCode_indexOperand]
  all_goals simp [operandCode, Instr.opcode]

/-- For a request that decodes, the first failing check is that of the command. -/
theorem firstFailing_of_decode {cw data : Word32} {i : Instr} (h : decode cw data = .ok i) (p : Port)
    (n : Nat) : firstFailing cw data p n = failingCheck i p n := by
  obtain ⟨hop, -, harg, hdata⟩ := decode_eq_ok h
  unfold firstFailing failingCheck
  rw [if_neg (not_illegalWord_of_decode_ok h), hop, harg, operandCode_eq hdata]
  by_cases hp : mayIssue i p = true
  · rw [if_neg (not_not.2 ((rightPort_iff_mayIssue i p).2 hp)), if_pos hp]
  · rw [if_pos (mt (rightPort_iff_mayIssue i p).1 hp), if_neg hp]

/-! ### What an execution answers -/

/-- `t` answers command `i` in state `s` with `ok = 1` and the payload `v` (30_encoding.md R74). -/
structure State.Answers (i : Instr) (s t : State) (v : Word32) : Prop where
  response : t.responses = s.responses ++ [⟨s.port, true, v⟩]
  mark : t.everRejected = s.everRejected
  payload : carries i s t v

theorem regOperand_eq_ok {a : BitVec 16} {r : Reg} (h : regOperand a = .ok r) :
    Reg.ofNumber a.toNat = some r := by
  unfold regOperand at h
  split at h
  · rw [‹Reg.ofNumber a.toNat = some _›, Except.ok.inj h]
  · cases h

/-- Every command is an admission whose operand check is `operandCode` and whose body answers the command. -/
theorem exec_eq_accept (i : Instr) (s : State) :
    ∃ (α : Type) (operand : Except ErrCode α) (body : α → State → Result),
      exec i s = accept i operand body s ∧ raisedCode operand = operandCode s.size i
        ∧ ∀ a t, operand = .ok a → body a s = .next t → ∃ v, s.Answers i t v := by
  cases i
  all_goals
    unfold exec
    refine ⟨_, _, _, rfl, rfl, fun a t ha hb => ?_⟩
  case tick | push =>
    obtain ⟨u, hu, rfl⟩ := mapNext_eq_next hb
    obtain ⟨-, rfl⟩ := State.pushSample_eq_next hu
    exact ⟨_, rfl, rfl, rfl⟩
  case rdreg =>
    cases hb
    exact ⟨_, rfl, rfl, a, regOperand_eq_ok ha, rfl⟩
  case rdsnap | rdre | rdim | rdbin =>
    cases hb
    obtain ⟨rfl, -⟩ := indexOperand_eq_ok ha
    exact ⟨_, rfl, rfl, rfl⟩
  all_goals
    cases hb
    exact ⟨_, rfl, rfl, rfl⟩

/-- A command that fails a check is rejected with the code of the first one (30_encoding.md R79). -/
theorem exec_of_failingCheck {i : Instr} {s : State} {code : ErrCode}
    (h : failingCheck i s.port s.size = some code) : exec i s = .next (s.reject i.opcode code) := by
  obtain ⟨α, operand, body, hexec, hfail, -⟩ := exec_eq_accept i s
  rw [failingCheck, ← hfail, ← raisedCode_checked] at h
  rw [hexec, accept, raisedCode_eq_some h]

/-- A command that fails no check answers with `ok = 1` if it completes. -/
theorem exec_answers {i : Instr} {s t : State} (h : failingCheck i s.port s.size = none)
    (ht : exec i s = .next t) : ∃ v, s.Answers i t v := by
  obtain ⟨α, operand, body, hexec, hfail, hbody⟩ := exec_eq_accept i s
  rw [failingCheck, ← hfail, ← raisedCode_checked] at h
  obtain ⟨a, ha⟩ := raisedCode_eq_none h
  obtain ⟨hp, ho⟩ := checked_eq_ok.1 ha
  rw [hexec, accept_accepted hp ho] at ht
  exact hbody a t ho ht

/-- Everything the execution of a command can answer: a rejection, or `ok = 1` with its payload. -/
theorem exec_rejects_or_answers {i : Instr} {s t : State} (h : exec i s = .next t) :
    (∃ code, t = s.reject i.opcode code) ∨ ∃ v, s.Answers i t v := by
  cases hf : failingCheck i s.port s.size with
  | some code =>
    rw [exec_of_failingCheck hf] at h
    exact .inl ⟨code, (Host.Outcome.next.inj h).symm⟩
  | none => exact .inr (exec_answers hf h)

/-- Everything a request can be answered: a rejection, or `ok = 1` with the payload of the command it decodes
to. -/
theorem runRequest_rejects_or_answers {r : Request} {s t : State} (h : runRequest r s = .next t) :
    (∃ code, t = s.reject (opField r.cw) code)
      ∨ ∃ i v, decode r.cw r.data = .ok i ∧ s.Answers i t v := by
  obtain ⟨i, hd, hi⟩ | ⟨-, ht⟩ := runRequest_eq_next h
  · obtain ⟨hop, -⟩ := decode_eq_ok hd
    rw [hop]
    exact (exec_rejects_or_answers hi).imp_right fun ⟨v, hv⟩ => ⟨i, v, hd, hv⟩
  · exact .inl ⟨_, ht⟩

end Sys2Proof.Machine

/-- Settles O13: an illegal word does not decode; for one that does, the checks listed on its fields are the
checks of the command, and a command that fails none answers. -/
theorem decodeProcedure : Obligations.DecodeProcedure := by
  constructor
  · intro r s code h
    cases hd : decode r.cw r.data with
    | ok i =>
      obtain ⟨hop, -⟩ := decode_eq_ok hd
      rw [firstFailing_of_decode hd] at h
      rw [runRequest_of_ok hd, hop]
      exact exec_of_failingCheck h
    | error e =>
      have hcode : some ErrCode.illegal = some code := (if_pos (illegalWord_of_decode_error hd)).symm.trans h
      cases hcode
      exact runRequest_of_error hd s
  · intro r s hwr h
    cases hd : decode r.cw r.data with
    | ok i =>
      rw [firstFailing_of_decode hd] at h
      obtain ⟨t, ht⟩ := exec_completes i hwr
      obtain ⟨v, hv⟩ := exec_answers h ht
      exact ⟨i, t, v, rfl, runRequest_of_ok hd s, ht, hv.response⟩
    | error e => cases (if_pos (illegalWord_of_decode_error hd)).symm.trans h

/-- Settles O45: a request is rejected, or its command answers with the payload it carries. -/
theorem everyRequestIsAnsweredOnce : Obligations.EveryRequestIsAnsweredOnce := by
  intro r s t h
  obtain ⟨code, rfl⟩ | ⟨i, v, hd, hresp, hmark, hcarries⟩ := runRequest_rejects_or_answers h
  · exact ⟨false, code.num.setWidth 32, rfl, (Bool.or_true _).symm, fun hok => (by cases hok),
      fun _ => ⟨code, rfl, rfl⟩⟩
  · exact ⟨true, v, hresp, hmark.trans (Bool.or_false _).symm, fun _ => ⟨i, hd, hcarries⟩,
      fun hok => (by cases hok)⟩

end

/-! ## Frames of samples -/

section
open Sys2Proof Sys2Proof.Machine

namespace Sys2Proof.Machine

/-- A list of commands goes on from where its first command ends. -/
theorem execAll_cons_of_next {p : Port} {i : Instr} {s u : State} (h : exec i { s with port := p } = .next u)
    (rest : List (Port × Instr)) : execAll ((p, i) :: rest) s = execAll rest u := by
  rw [execAll, h]

/-- `TICK` on port `S` emits one sample, which is its response (40_oscillator_bank.md R100). -/
theorem exec_tick_emits {s : State} (hwr : s.wr < s.size) :
    ∃ t v, exec .tick { s with port := .S } = .next t ∧ t.wr < t.size ∧ t.sOut = s.sOut ++ [v]
      ∧ t.responses = s.responses ++ [⟨.S, true, v⟩] := by
  obtain ⟨t, ht⟩ := exec_completes .tick (s := { s with port := .S }) hwr
  obtain ⟨v, hresp, -, hsample⟩ := exec_answers rfl ht
  exact ⟨t, v, ht, (exec_served ht).inRing hwr, hsample, hresp⟩

end Sys2Proof.Machine

/-- Settles O55, by induction on the number of `TICK`s. -/
theorem frameEmitsExactlyItsSamples : Obligations.FrameEmitsExactlyItsSamples := by
  intro n
  induction n with
  | zero => exact fun s _ => ⟨s, [], rfl, rfl, (List.append_nil _).symm, (List.append_nil _).symm⟩
  | succ n ih =>
    intro s hwr
    obtain ⟨u, v, hu, huwr, hout, hresp⟩ := exec_tick_emits hwr
    obtain ⟨t, outs, ht, hlen, hout', hresp'⟩ := ih u huwr
    refine ⟨t, v :: outs, (execAll_cons_of_next hu _).trans ht, by rw [List.length_cons, hlen], ?_, ?_⟩
    · rw [hout', hout, List.append_assoc]
      rfl
    · rw [hresp', hresp, List.append_assoc]
      rfl

end

/-! ## The synthesis commands -/

section
open Sys2Proof Sys2Proof.Machine

namespace Sys2Proof.Machine

/-- A command that only port `p` may issue is rejected on every other port. -/
theorem onlyOnPort_of_mayIssue {p : Port} {i : Instr} (h : ∀ q, q ≠ p → mayIssue i q = false) :
    onlyOnPort p i := by
  intro s hp
  exact exec_of_failingCheck (by rw [failingCheck, h s.port hp]; rfl)

/-- A request whose word encodes no command is rejected with `ERR_ILLEGAL`. -/
theorem runRequest_of_illegalWord {r : Request} (h : illegalWord r.cw) (s : State) :
    runRequest r s = .next (s.reject (opField r.cw) .illegal) := by
  cases hd : decode r.cw r.data with
  | ok i => exact absurd h (not_illegalWord_of_decode_ok hd)
  | error e => exact runRequest_of_error hd s

/-- A word whose reserved field and argument are zero has bits 23:0 zero. -/
theorem low24_eq_zero {cw : Word32} (hrsv : rsvField cw = 0) (harg : argField cw = 0) :
    cw.extractLsb' 0 24 = 0 := by
  rw [← word_of_fields cw, hrsv, harg]
  apply BitVec.eq_of_toNat_eq
  rw [BitVec.extractLsb'_toNat, assembled_toNat]
  simp

/-- A nonzero bit in `cw[23:0]` makes a word of a format without argument illegal (30_encoding.md R77). -/
theorem bareWordsOnly_of_not_mem_argOpcodes {op : BitVec 8} (h : op.toNat ∉ argOpcodes) :
    bareWordsOnly op := by
  rintro cw data s rfl hlow
  refine runRequest_of_illegalWord (r := ⟨cw, data⟩) ?_ s
  by_cases hrsv : rsvField cw = 0
  · exact .inr (.inr ⟨h, fun harg => hlow (low24_eq_zero hrsv harg)⟩)
  · exact .inr (.inl hrsv)

/-- `TICK` on port `S`: the advance of the selected waveform, its sample pushed, emitted and responded
(40_oscillator_bank.md R100). -/
theorem exec_tick_of_port {s : State} (hp : s.port = .S) (hwr : s.wr < s.size) :
    exec .tick s = .next { s with
      triDir := (s.oscillator Num.f32).2.2
      phase := (s.oscillator Num.f32).2.1
      win := s.win.write s.wr (s.oscillator Num.f32).1
      wr := (s.wr + 1) % s.size
      fill := min (s.fill + 1) s.size
      sOut := s.sOut ++ [(s.oscillator Num.f32).1]
      responses := s.responses ++ [⟨.S, true, (s.oscillator Num.f32).1⟩] } := by
  have hadmit : exec .tick s = tickWith Num.f32 s := accept_noOperand (by rw [hp]; rfl)
  rw [hadmit, tickWith, State.pushSample_next (by exact hwr), ← hp]
  rfl

end Sys2Proof.Machine

namespace Sys2Proof

theorem F32.ofInt_one : F32.ofInt 1 = 0x3F800000 := by decide +kernel
theorem F32.ofInt_two : F32.ofInt 2 = 0x40000000 := by decide +kernel
theorem F32.ofInt_neg_one : F32.ofInt (-1) = 0xBF800000 := by decide +kernel
theorem F32.ofInt_neg_two : F32.ofInt (-2) = 0xC0000000 := by decide +kernel

end Sys2Proof

namespace Sys2Proof.Machine

/-! ### The waveforms in `NUM_F32`, with the literals as bit patterns -/

theorem Num.f32_sineWave (p df amp : F32) : Num.f32.sineWave p df amp =
    (F32.mul amp (Config.sin32 (F32.mul 0x40C90FDB p)),
      if F32.le 0x3F800000 (F32.add p df) = true then F32.sub (F32.add p df) 0x3F800000
      else F32.add p df) := by
  rw [← F32.ofInt_one]
  rfl

theorem Num.f32_squareWave (p df amp : F32) : Num.f32.squareWave p df amp =
    (if F32.le 0 (F32.mul p 0x40C90FDB) = true ∧ F32.lt (F32.mul p 0x40C90FDB) 0x40490FDB = true
      then amp else F32.neg amp,
      if F32.le 0x3F800000 (F32.add p (F32.mul 0x40000000 df)) = true
      then F32.sub (F32.add p (F32.mul 0x40000000 df)) 0x40000000
      else F32.add p (F32.mul 0x40000000 df)) := by
  rw [← F32.ofInt_one, ← F32.ofInt_two, ← F32.ofInt_zero]
  simp only [← Bool.and_eq_true]
  rfl

theorem Num.f32_triangleDir (p df : F32) (up : Bool) : Num.f32.triangleDir p df up =
    if up = false ∧ F32.lt (F32.sub p df) 0xBF800000 = true then true
    else if up = true ∧ F32.lt 0x3F800000 (F32.add p df) = true then false
    else up := by
  rw [← F32.ofInt_one, ← F32.ofInt_neg_one]
  cases up <;> simp [Num.triangleDir, Num.gt]

theorem Num.f32_sawtoothWave (p df amp : F32) : Num.f32.sawtoothWave p df amp =
    (F32.mul amp p,
      if F32.le 0x3F800000 (F32.add p (F32.mul 0x40000000 df)) = true then 0xC0000000
      else F32.add p (F32.mul 0x40000000 df)) := by
  rw [← F32.ofInt_one, ← F32.ofInt_two, ← F32.ofInt_neg_two]
  rfl

end Sys2Proof.Machine

/-- Settles O23: `TICK` on port `S` as an equation, with each waveform's advance written out in `NUM_F32`, and
its two errors. -/
theorem tickEmitsAndAdvances : Obligations.TickEmitsAndAdvances := by
  refine ⟨fun s hp hwr => ?_, onlyOnPort_of_mayIssue fun q hq => beq_eq_false_iff_ne.2 hq,
    bareWordsOnly_of_not_mem_argOpcodes (by decide), ?_⟩
  · rw [exec_tick_of_port hp hwr]
    cases hw : s.wave
    case sine => simp [State.oscillator, Num.advance, Num.phaseStep, hw, Num.f32_sineWave]
    case square => simp [State.oscillator, Num.advance, Num.phaseStep, hw, Num.f32_squareWave]
    case triangle =>
      simp [State.oscillator, Num.advance, Num.phaseStep, Num.triangleWave, hw, Num.f32_triangleDir]
    case sawtooth => simp [State.oscillator, Num.advance, Num.phaseStep, hw, Num.f32_sawtoothWave]
  · norm_num [Num.advance, Num.sineWave, Num.real_ge]

/-! ### What the synthesis commands leave unchanged -/

namespace Sys2Proof.Machine

/-- Everything a `TICK` can do: it is rejected, or it pushes, emits and responds the sample of the state's
oscillator, whose phase and direction flag it has advanced (40_oscillator_bank.md R100). -/
theorem exec_tick_eq_next {s t : State} (h : exec .tick s = .next t) :
    (∃ code, t = s.reject Instr.tick.opcode code)
      ∨ ∃ u, State.pushSample (s.oscillator Num.f32).1
          { s with triDir := (s.oscillator Num.f32).2.2, phase := (s.oscillator Num.f32).2.1 } = .next u
        ∧ t = (u.emit (s.oscillator Num.f32).1).respond (s.oscillator Num.f32).1 := by
  unfold exec at h
  obtain hr | ⟨-, -, -, hb⟩ := accept_eq_next h
  · exact .inl hr
  · exact .inr (mapNext_eq_next hb)

/-- Everything a `PUSH` can do: it is rejected, or it pushes its operand and emits nothing
(41_sample_window_buffer.md R121). -/
theorem exec_push_eq_next {v : F32} {s t : State} (h : exec (.push v) s = .next t) :
    (∃ code, t = s.reject (Instr.push v).opcode code) ∨ ∃ u, s.pushSample v = .next u ∧ t = u.respond 0 := by
  unfold exec at h
  obtain hr | ⟨-, x, hx, hb⟩ := accept_eq_next h
  · exact .inl hr
  · obtain ⟨rfl, -⟩ := realOperand_eq_ok hx
    exact .inr (mapNext_eq_next hb)

/-- Only Triangle writes the direction flag (40_oscillator_bank.md R100). -/
theorem Num.advance_triDir {R : Type} (num : Num R) {w : Wave} (hw : w ≠ .triangle) (p df amp : R)
    (up : Bool) : (num.advance w p df amp up).2.2 = up := by
  cases w
  case triangle => exact absurd rfl hw
  all_goals rfl

/-- What a synthesis command leaves of a state: what the other ports write, and every element of the window
but the one at `WR`. -/
structure State.SynthesisFrame (s t : State) : Prop where
  control : sameControl s t
  analysis : sameAnalysis s t
  window : ∀ k, k ≠ s.wr → t.memRead .win k = s.memRead .win k

theorem State.reject_synthesisFrame (op : BitVec 8) (code : ErrCode) (s : State) :
    s.SynthesisFrame (s.reject op code) :=
  ⟨⟨rfl, rfl, rfl, rfl, rfl⟩, ⟨rfl, rfl, rfl, rfl, rfl, rfl, rfl⟩, fun _ _ => rfl⟩

theorem exec_tick_frame {s t : State} (h : exec .tick s = .next t) :
    s.SynthesisFrame t ∧ (s.wave ≠ .triangle → t.triDir = s.triDir) := by
  obtain ⟨code, rfl⟩ | ⟨u, hu, rfl⟩ := exec_tick_eq_next h
  · exact ⟨s.reject_synthesisFrame _ code, fun _ => rfl⟩
  · obtain ⟨-, rfl⟩ := State.pushSample_eq_next hu
    exact ⟨⟨⟨rfl, rfl, rfl, rfl, rfl⟩, ⟨rfl, rfl, rfl, rfl, rfl, rfl, rfl⟩,
      fun _ hk => Memory.read_write_other _ hk _⟩, fun hw => Num.advance_triDir _ hw _ _ _ _⟩

theorem exec_push_frame {v : F32} {s t : State} (h : exec (.push v) s = .next t) :
    s.SynthesisFrame t ∧ t.phase = s.phase ∧ t.triDir = s.triDir ∧ t.sOut = s.sOut := by
  obtain ⟨code, rfl⟩ | ⟨u, hu, rfl⟩ := exec_push_eq_next h
  · exact ⟨s.reject_synthesisFrame _ code, rfl, rfl, rfl⟩
  · obtain ⟨-, rfl⟩ := State.pushSample_eq_next hu
    exact ⟨⟨⟨rfl, rfl, rfl, rfl, rfl⟩, ⟨rfl, rfl, rfl, rfl, rfl, rfl, rfl⟩,
      fun _ hk => Memory.read_write_other _ hk _⟩, rfl, rfl, rfl⟩

end Sys2Proof.Machine

/-- Settles O40: the frame of each of the two commands, with the parameters, the interface and `ERR` as every
command leaves them. -/
theorem synthesisCommandsFrame : Obligations.SynthesisCommandsFrame := by
  intro s t i hi h
  have hframe : s.SynthesisFrame t ∧ ((∃ v, i = .push v) → t.phase = s.phase ∧ t.triDir = s.triDir
      ∧ t.sOut = s.sOut) ∧ (s.wave ≠ .triangle → t.triDir = s.triDir) := by
    obtain rfl | ⟨v, rfl⟩ := hi
    · obtain ⟨hf, htri⟩ := exec_tick_frame h
      exact ⟨hf, nofun, htri⟩
    · obtain ⟨hf, hphase, htri, hout⟩ := exec_push_frame h
      exact ⟨hf, fun _ => ⟨hphase, htri, hout⟩, fun _ => htri⟩
  obtain ⟨⟨hctl, hana, hwin⟩, hpush, htri⟩ := hframe
  have herr : errKept i s t := exec_errKept (by rintro rfl; obtain hi | ⟨_, hi⟩ := hi <;> cases hi) h
  exact ⟨hctl, hana, (exec_keepsOthers h).parameters, (exec_served h).interface, herr, hwin,
    fun sp k hsp => congrArg (fun m : Memory => m.read k) (hana.memory hsp), hpush, htri⟩

end

/-! ## The oscillator in exact arithmetic -/

section
open Sys2Proof Sys2Proof.Machine

namespace Sys2Proof.Machine

/-! ### The waveforms in `NUM_REAL` -/

theorem Num.real_sineWave (p df amp : ℝ) : Num.real.sineWave p df amp =
    (amp * Real.sin (2 * Real.pi * p), if 1 ≤ p + df then p + df - 1 else p + df) := by
  simp [Num.sineWave]

theorem Num.real_squareWave (p df amp : ℝ) : Num.real.squareWave p df amp =
    (if 0 ≤ p * (2 * Real.pi) ∧ p * (2 * Real.pi) < Real.pi then amp else -amp,
      if 1 ≤ p + 2 * df then p + 2 * df - 2 else p + 2 * df) := by
  simp [Num.squareWave]

theorem Num.real_triangleDir (p df : ℝ) (up : Bool) : Num.real.triangleDir p df up =
    if up = false ∧ p - df < -1 then true else if up = true ∧ 1 < p + df then false else up := by
  simp [Num.triangleDir]

theorem Num.real_triangleWave (p df amp : ℝ) (up : Bool) : Num.real.triangleWave p df amp up =
    (amp * p, if Num.real.triangleDir p df up = true then p + df else p - df,
      Num.real.triangleDir p df up) := rfl

theorem Num.real_sawtoothWave (p df amp : ℝ) : Num.real.sawtoothWave p df amp =
    (amp * p, if 1 ≤ p + 2 * df then -2 else p + 2 * df) := by
  simp [Num.sawtoothWave, Num.sawReset]

/-! ### The state of the oscillator after one sample -/

theorem realAdvance_sine (df : ℝ) (s : ℝ × Bool) : realAdvance .sine df s =
    (if 1 ≤ s.1 + df then s.1 + df - 1 else s.1 + df, s.2) := by
  simp [realAdvance, Num.advance, Num.real_sineWave]

theorem realAdvance_square (df : ℝ) (s : ℝ × Bool) : realAdvance .square df s =
    (if 1 ≤ s.1 + 2 * df then s.1 + 2 * df - 2 else s.1 + 2 * df, s.2) := by
  simp [realAdvance, Num.advance, Num.real_squareWave]

theorem realAdvance_triangle (df : ℝ) (s : ℝ × Bool) : realAdvance .triangle df s =
    (if Num.real.triangleDir s.1 df s.2 = true then s.1 + df else s.1 - df,
      Num.real.triangleDir s.1 df s.2) := rfl

theorem realAdvance_sawtooth (df : ℝ) (s : ℝ × Bool) : realAdvance .sawtooth df s =
    (if 1 ≤ s.1 + 2 * df then -2 else s.1 + 2 * df, s.2) := by
  simp [realAdvance, Num.advance, Num.real_sawtoothWave]

/-! ### Bounds of the phase -/

/-- The triangle's lookahead: it goes up only where that passes no 1, down only where that passes no -1. -/
theorem Num.real_triangleDir_room {p df : ℝ} (h1 : df ≤ 1) (up : Bool) :
    if Num.real.triangleDir p df up = true then p + df ≤ 1 else -1 ≤ p - df := by
  rw [Num.real_triangleDir]
  cases up
  · by_cases hd : p - df < -1 <;> simp [hd] <;> linarith
  · by_cases hu : 1 < p + df <;> simp [hu] <;> linarith

/-- One sample of any waveform keeps the phase in [-2, 1] (40_oscillator_bank.md R108). -/
theorem realAdvance_bounded (w : Wave) {df : ℝ} {s : ℝ × Bool} (h0 : 0 < df) (h1 : df ≤ 1)
    (hl : -2 ≤ s.1) (hu : s.1 ≤ 1) :
    -2 ≤ (realAdvance w df s).1 ∧ (realAdvance w df s).1 ≤ 1 := by
  cases w
  case triangle =>
    have hroom := Num.real_triangleDir_room (p := s.1) h1 s.2
    rw [realAdvance_triangle]
    dsimp only
    split_ifs at hroom ⊢ <;> constructor <;> linarith
  case sine | square | sawtooth =>
    simp only [realAdvance_sine, realAdvance_square, realAdvance_sawtooth]
    split_ifs <;> constructor <;> linarith

/-- A run of any waveforms keeps the phase in [-2, 1]. -/
theorem realRun_bounded (run : List (Wave × ℝ)) : ∀ s : ℝ × Bool,
    (∀ e ∈ run, 0 < e.2 ∧ e.2 ≤ 1) → -2 ≤ s.1 → s.1 ≤ 1 →
    -2 ≤ (realRun run s).1 ∧ (realRun run s).1 ≤ 1 := by
  induction run with
  | nil => exact fun _ _ hl hu => ⟨hl, hu⟩
  | cons e rest ih =>
    intro s hdf hl hu
    obtain ⟨⟨h0, h1⟩, hrest⟩ := List.forall_mem_cons.1 hdf
    obtain ⟨hl', hu'⟩ := realAdvance_bounded e.1 h0 h1 hl hu
    exact ih _ hrest hl' hu'

/-- A waveform's own range as inequalities. -/
theorem Num.real_ownRange (w : Wave) (p : ℝ) : Num.real.ownRange w p ↔
    match w with
    | .sine => 0 ≤ p ∧ p < 1
    | .square => -1 ≤ p ∧ p < 1
    | .triangle => -1 ≤ p ∧ p ≤ 1
    | .sawtooth => -2 ≤ p ∧ p < 1 := by
  cases w <;> simp [Num.ownRange]

/-- One sample of a waveform keeps the waveform's own range (40_oscillator_bank.md R108). -/
theorem realAdvance_ownRange (w : Wave) {df : ℝ} {s : ℝ × Bool} (h0 : 0 < df) (h1 : df ≤ 1)
    (h : Num.real.ownRange w s.1) : Num.real.ownRange w (realAdvance w df s).1 := by
  rw [Num.real_ownRange] at h ⊢
  cases w
  case triangle =>
    obtain ⟨hl, hu⟩ := h
    have hroom := Num.real_triangleDir_room (p := s.1) h1 s.2
    rw [realAdvance_triangle]
    dsimp only
    split_ifs at hroom ⊢ <;> constructor <;> linarith
  case sine | square | sawtooth =>
    obtain ⟨hl, hu⟩ := h
    simp only [realAdvance_sine, realAdvance_square, realAdvance_sawtooth]
    split_ifs <;> constructor <;> linarith

end Sys2Proof.Machine

/-- Settles O25, by induction on the run, and by cases on the waveform for one sample. -/
theorem sharedPhaseStaysBounded : Obligations.SharedPhaseStaysBounded :=
  ⟨realRun_bounded, fun w _ _ => realAdvance_ownRange w⟩


namespace Sys2Proof.Machine

/-! ### The sine over many samples -/

/-- A sine sample advances the phase modulo 1 (40_oscillator_bank.md R102). -/
theorem realAdvance_sine_fract {df : ℝ} {s : ℝ × Bool} (h0 : 0 ≤ df) (h1 : df ≤ 1) (hl : 0 ≤ s.1)
    (hu : s.1 < 1) : realAdvance .sine df s = (Int.fract (s.1 + df), s.2) := by
  rw [realAdvance_sine]
  congr 1
  split_ifs with hwrap
  · refine (Int.fract_eq_iff.2 ⟨by linarith, by linarith, 1, ?_⟩).symm
    push_cast
    ring
  · exact (Int.fract_eq_self.2 ⟨by linarith, by linarith⟩).symm

/-- The phase after `n` sine samples, modulo 1. -/
theorem realRun_sine {df : ℝ} (h0 : 0 ≤ df) (h1 : df ≤ 1) (n : Nat) : ∀ s : ℝ × Bool,
    0 ≤ s.1 → s.1 < 1 →
    realRun (List.replicate n (.sine, df)) s = (Int.fract (s.1 + n * df), s.2) := by
  induction n with
  | zero =>
    intro s hl hu
    simp [realRun, Int.fract_eq_self.2 ⟨hl, hu⟩]
  | succ n ih =>
    intro s hl hu
    rw [List.replicate_succ, realRun, realAdvance_sine_fract h0 h1 hl hu,
      ih _ (Int.fract_nonneg _) (Int.fract_lt_one _)]
    congr 1
    rw [Int.fract_eq_fract]
    refine ⟨-⌊s.1 + df⌋, ?_⟩
    rw [Int.fract]
    push_cast
    ring

/-! ### Amplitudes and steps -/

/-- The Sine sample stays within the amplitude (40_oscillator_bank.md R102). -/
theorem Num.real_sineWave_abs_le (p df : ℝ) {amp : ℝ} (h : 0 ≤ amp) :
    |(Num.real.sineWave p df amp).1| ≤ amp := by
  rw [Num.real_sineWave, abs_mul, abs_of_nonneg h]
  exact mul_le_of_le_one_right h (Real.abs_sin_le_one _)

/-- The Square sample is plus or minus the amplitude (40_oscillator_bank.md R103). -/
theorem Num.real_squareWave_abs (p df : ℝ) {amp : ℝ} (h : 0 ≤ amp) :
    |(Num.real.squareWave p df amp).1| = amp := by
  rw [Num.real_squareWave]
  dsimp only
  split_ifs
  · exact abs_of_nonneg h
  · rw [abs_neg, abs_of_nonneg h]

/-- The Triangle sample stays within the amplitude while the phase is in [-1, 1]
(40_oscillator_bank.md R104). -/
theorem Num.real_triangleWave_abs_le {p amp : ℝ} (df : ℝ) (up : Bool) (h : 0 ≤ amp) (hl : -1 ≤ p)
    (hu : p ≤ 1) : |(Num.real.triangleWave p df amp up).1| ≤ amp := by
  rw [Num.real_triangleWave, abs_mul, abs_of_nonneg h]
  exact mul_le_of_le_one_right h (abs_le.2 ⟨hl, hu⟩)

/-- The triangle moves by exactly `df` (40_oscillator_bank.md R104). -/
theorem Num.real_triangleWave_step (p amp : ℝ) {df : ℝ} (up : Bool) (h : 0 < df) :
    |(Num.real.triangleWave p df amp up).2.1 - p| = df := by
  rw [Num.real_triangleWave]
  dsimp only
  split_ifs
  · rw [add_sub_cancel_left, abs_of_pos h]
  · rw [sub_sub_cancel_left, abs_neg, abs_of_pos h]

/-- The Sawtooth sample while the phase is in [-2, 1] (40_oscillator_bank.md R105). -/
theorem Num.real_sawtoothWave_bounds {p amp : ℝ} (df : ℝ) (h : 0 ≤ amp) (hl : -2 ≤ p) (hu : p ≤ 1) :
    -2 * amp ≤ (Num.real.sawtoothWave p df amp).1 ∧ (Num.real.sawtoothWave p df amp).1 ≤ amp := by
  rw [Num.real_sawtoothWave, mul_comm (-2)]
  exact ⟨mul_le_mul_of_nonneg_left hl h, mul_le_of_le_one_right h hu⟩

/-- The sawtooth climbs by `2 df` or is reset to -2 (40_oscillator_bank.md R105). -/
theorem Num.real_sawtoothWave_step (p df amp : ℝ) :
    (Num.real.sawtoothWave p df amp).2 = p + 2 * df ∧ p + 2 * df < 1
      ∨ (Num.real.sawtoothWave p df amp).2 = -2 ∧ 1 ≤ p + 2 * df := by
  rw [Num.real_sawtoothWave]
  dsimp only
  split_ifs with hwrap
  · exact .inr ⟨rfl, hwrap⟩
  · exact .inl ⟨rfl, not_le.1 hwrap⟩

end Sys2Proof.Machine

/-- Settles O24: each waveform's sample and step by its equation; the phase of the sine advances modulo 1. -/
theorem waveformsInExactArithmetic : Obligations.WaveformsInExactArithmetic := by
  refine ⟨fun p df _ => Num.real_sineWave_abs_le p df, fun p df _ => Num.real_squareWave_abs p df,
    fun p df amp up h hdf _ hl hu =>
      ⟨Num.real_triangleWave_abs_le df up h hl hu, Num.real_triangleWave_step p amp up hdf⟩, ?_, ?_, ?_⟩
  · intro p df amp h _ _ hl hu
    obtain ⟨hsl, hsu⟩ := Num.real_sawtoothWave_bounds df h hl hu.le
    exact ⟨hsl, hsu, Num.real_sawtoothWave_step p df amp⟩
  · intro n p up hn hl hu
    have hn1 : (1 : ℝ) ≤ n := Nat.one_le_cast.2 hn
    have hdf : 1 / (n : ℝ) ≤ 1 := (div_le_one (by linarith)).2 hn1
    rw [realRun_sine (by positivity) hdf n _ hl hu, mul_one_div_cancel (by linarith), Int.fract_add_one,
      Int.fract_eq_self.2 ⟨hl, hu⟩]
  · rw [realRun_sine (by norm_num) (by norm_num) 100 _ le_rfl one_pos]
    congr 1
    exact Int.fract_eq_iff.2 ⟨by norm_num, by norm_num, 0, by norm_num⟩

end

/-! ## The transform in exact arithmetic -/

section
open Sys2Proof Sys2Proof.Machine

namespace Sys2Proof.Machine

/-! ### The complex operations as complex arithmetic -/

theorem toComplex_injective : Function.Injective toComplex := by
  rintro ⟨a, b⟩ ⟨c, d⟩ h
  obtain ⟨rfl, rfl⟩ := Complex.mk.inj h
  rfl

theorem toComplex_mk (a b : ℝ) : toComplex (a, b) = a + b * Complex.I := Complex.mk_eq_add_mul_I a b

@[simp] theorem toComplex_ofReal (a : ℝ) : toComplex (Num.real.ofReal a) = a := by
  simp [Num.ofReal, toComplex_mk]

@[simp] theorem toComplex_cadd (x y : ℝ × ℝ) : toComplex (Num.real.cadd x y) =
    toComplex x + toComplex y := rfl

@[simp] theorem toComplex_csub (x y : ℝ × ℝ) : toComplex (Num.real.csub x y) =
    toComplex x - toComplex y := rfl

@[simp] theorem toComplex_cmul (x y : ℝ × ℝ) : toComplex (Num.real.cmul x y) =
    toComplex x * toComplex y := rfl

/-- A twiddle factor is a root of unity (42_fft_butterfly.md R141). -/
theorem toComplex_twiddle (w k : Nat) : toComplex (Num.real.twiddle w k) =
    Complex.exp (-(Complex.I * (2 * Real.pi * k / w))) := by
  have hexp : ∀ t : ℝ, toComplex (Num.real.cexpm t) = Complex.exp (-(Complex.I * t)) := by
    intro t
    rw [mul_comm, ← neg_mul, Complex.exp_mul_I, Complex.cos_neg, Complex.sin_neg, ← Complex.ofReal_cos,
      ← Complex.ofReal_sin, ← Complex.ofReal_neg]
    exact toComplex_mk _ _
  rw [Num.twiddle, hexp]
  simp

/-! ### The Danielson-Lanczos splitting -/

/-- A sum over twice the range, by even and odd indices. -/
theorem sum_range_two_mul {M : Type} [AddCommMonoid M] (n : Nat) (f : Nat → M) :
    ∑ t ∈ Finset.range (2 * n), f t
      = ∑ t ∈ Finset.range n, f (2 * t) + ∑ t ∈ Finset.range n, f (2 * t + 1) := by
  induction n with
  | zero => simp
  | succ n ih =>
    simp only [Nat.mul_succ, Finset.sum_range_succ, ih]
    abel

/-- The DFT of twice the size from those of the even and the odd elements. -/
theorem dft_two_mul {n : Nat} (hn : 0 < n) (x : Nat → ℂ) (k : Nat) :
    dft (2 * n) x k = dft n (fun t => x (2 * t)) k
      + Complex.exp (-(Complex.I * (2 * Real.pi * k / (2 * n : Nat))))
        * dft n (fun t => x (2 * t + 1)) k := by
  have hn' : (n : ℂ) ≠ 0 := Nat.cast_ne_zero.2 hn.ne'
  rw [dft, sum_range_two_mul, dft, dft, Finset.mul_sum]
  congr 1
  · refine Finset.sum_congr rfl fun t _ => ?_
    congr 2
    push_cast
    field_simp
  · refine Finset.sum_congr rfl fun t _ => ?_
    rw [mul_left_comm, ← Complex.exp_add]
    congr 2
    push_cast
    field_simp
    ring

/-- The DFT of size `n` has period `n`. -/
theorem dft_add_size {n : Nat} (hn : 0 < n) (x : Nat → ℂ) (k : Nat) : dft n x (k + n) = dft n x k := by
  have hn' : (n : ℂ) ≠ 0 := Nat.cast_ne_zero.2 hn.ne'
  refine Finset.sum_congr rfl fun t _ => congrArg (x t * ·) ?_
  refine Complex.exp_eq_exp_iff_exists_int.2 ⟨-t, ?_⟩
  push_cast
  field_simp
  ring

/-- Half the size further on, a twiddle factor is the opposite. -/
theorem exp_half_turn {n : Nat} (hn : 0 < n) (k : Nat) :
    Complex.exp (-(Complex.I * (2 * Real.pi * (k + n : Nat) / (2 * n : Nat))))
      = -Complex.exp (-(Complex.I * (2 * Real.pi * k / (2 * n : Nat)))) := by
  have hn' : (n : ℂ) ≠ 0 := Nat.cast_ne_zero.2 hn.ne'
  rw [← Complex.exp_sub_pi_mul_I]
  congr 1
  push_cast
  field_simp
  ring

/-- The radix-2 recursion is the reference DFT (42_fft_butterfly.md R153). -/
theorem toComplex_fftRec (m : Nat) : ∀ (x : Nat → ℝ × ℝ) (k : Nat), k < 2 ^ m →
    toComplex (Num.real.fftRec m x k) = dft (2 ^ m) (fun t => toComplex (x t)) k := by
  induction m with
  | zero =>
    intro x k hk
    obtain rfl : k = 0 := by simpa using hk
    simp [Num.fftRec, dft]
  | succ m ih =>
    intro x k hk
    have hh : 0 < 2 ^ m := Nat.two_pow_pos m
    rw [pow_succ'] at hk ⊢
    rw [dft_two_mul hh]
    by_cases hlow : k < 2 ^ m
    · simp [Num.fftRec, Num.bfly, hlow, ih, Nat.mod_eq_of_lt, toComplex_twiddle]
    · obtain ⟨j, rfl⟩ := Nat.exists_eq_add_of_le' (not_lt.1 hlow)
      have hj : j < 2 ^ m := by omega
      rw [dft_add_size hh, dft_add_size hh, exp_half_turn hh]
      simp [Num.fftRec, Num.bfly, ih, hj, Nat.mod_eq_of_lt, toComplex_twiddle, sub_eq_add_neg]

/-- The transform of a real sequence is its reference DFT. -/
theorem toComplex_fftReal (m : Nat) (x : Nat → ℝ) {k : Nat} (hk : k < 2 ^ m) :
    toComplex (Num.real.fftReal m x k) = dft (2 ^ m) (fun t => (x t : ℂ)) k := by
  simp [Num.fftReal, toComplex_fftRec m _ k hk]

/-! ### A bin-aligned sine -/

/-- Orthogonality of the complex exponentials over `n` points. -/
theorem sum_exp_orthogonal {n : Nat} (hn : n ≠ 0) (j : ℤ) :
    ∑ t ∈ Finset.range n, Complex.exp (-(Complex.I * (2 * Real.pi * j * t / n)))
      = if (n : ℤ) ∣ j then (n : ℂ) else 0 := by
  have hroot := Complex.isPrimitiveRoot_exp n hn
  set ζ := Complex.exp (2 * Real.pi * Complex.I / n) with hζ
  have hterm : ∀ t : Nat, Complex.exp (-(Complex.I * (2 * Real.pi * j * t / n))) = (ζ ^ (-j)) ^ t := by
    intro t
    rw [hζ, ← Complex.exp_int_mul, ← Complex.exp_nat_mul]
    congr 1
    push_cast
    ring
  simp only [hterm]
  have hone : ζ ^ (-j) = 1 ↔ (n : ℤ) ∣ j := (hroot.zpow_eq_one_iff_dvd _).trans (dvd_neg)
  split_ifs with hdvd
  · simp [hone.2 hdvd]
  · have hpow : (ζ ^ (-j)) ^ n = 1 := by
      rw [← zpow_natCast, zpow_comm, zpow_natCast, hroot.pow_eq_one, one_zpow]
    rw [geom_sum_eq (mt hone.1 hdvd), hpow, sub_self, zero_div]

/-- A sine against an exponential is the difference of two exponentials. -/
theorem sin_mul_exp (a b : ℂ) : Complex.sin a * Complex.exp (-(Complex.I * b))
    = Complex.I / 2 * (Complex.exp (-(Complex.I * (b + a))) - Complex.exp (-(Complex.I * (b - a)))) := by
  have hsum : -(Complex.I * (b + a)) = -a * Complex.I + -(Complex.I * b) := by ring
  have hdiff : -(Complex.I * (b - a)) = a * Complex.I + -(Complex.I * b) := by ring
  rw [hsum, hdiff, Complex.exp_add, Complex.exp_add, Complex.sin]
  ring

/-- The DFT of a sine of `k` periods. -/
theorem dft_sine {n : Nat} (hn : n ≠ 0) (amp : ℝ) (k j : Nat) :
    dft n (fun t => (amp * Real.sin (2 * Real.pi * k * t / n) : ℝ)) j
      = amp * (Complex.I / 2 * ((if (n : ℤ) ∣ j + k then (n : ℂ) else 0)
          - if (n : ℤ) ∣ j - k then (n : ℂ) else 0)) := by
  rw [← sum_exp_orthogonal hn, ← sum_exp_orthogonal hn, ← Finset.sum_sub_distrib, Finset.mul_sum,
    Finset.mul_sum]
  refine Finset.sum_congr rfl fun t _ => ?_
  have hterm := sin_mul_exp (2 * Real.pi * k * t / n) (2 * Real.pi * j * t / n)
  push_cast
  rw [mul_assoc, hterm]
  congr 4 <;> ring_nf

theorem dvd_sub_iff_eq {n j k : Nat} (hj : j < n) (hk : k < n) : (n : ℤ) ∣ (j : ℤ) - k ↔ j = k := by
  rw [← Nat.modEq_iff_dvd]
  exact ⟨fun h => (h.eq_of_lt_of_lt hk hj).symm, fun h => h ▸ .rfl⟩

theorem dvd_add_iff_eq {n j k : Nat} (hj : j < n) (h0 : 0 < k) (hk : k < n) :
    (n : ℤ) ∣ (j : ℤ) + k ↔ j = n - k := by
  rw [← dvd_sub_iff_eq hj (by omega : n - k < n), ← dvd_sub_self_right, Nat.cast_sub hk.le]
  congr! 1
  ring

/-- The DFT of a sine of `k` periods has two bins that are not zero: `n` divides `j - k` only at bin `k` and
`j + k` only at bin `n - k`. -/
theorem dft_sine_bins {n k j : Nat} (amp : ℝ) (hk : 0 < k) (hkn : 2 * k < n) (hj : j < n) :
    dft n (fun t => (amp * Real.sin (2 * Real.pi * k * t / n) : ℝ)) j =
      if j = k then -(amp * n / 2) * Complex.I
      else if j = n - k then amp * n / 2 * Complex.I else 0 := by
  rw [dft_sine (by omega), if_congr (dvd_add_iff_eq hj hk (by omega)) rfl rfl,
    if_congr (dvd_sub_iff_eq hj (by omega)) rfl rfl]
  split_ifs with hupper hlower
  · omega
  all_goals ring

/-- The spectrum of a bin-aligned sine (42_fft_butterfly.md R154). -/
theorem fftReal_sine {m k j : Nat} (amp : ℝ) (hk : 0 < k) (hkN : 2 * k < 2 ^ m) (hj : j < 2 ^ m) :
    Num.real.fftReal m (fun t => amp * Real.sin (2 * Real.pi * k * t / 2 ^ m)) j =
      if j = k then (0, -(amp * 2 ^ m / 2))
      else if j = 2 ^ m - k then (0, amp * 2 ^ m / 2) else (0, 0) := by
  have hbins := dft_sine_bins amp hk hkN hj
  simp only [Nat.cast_pow, Nat.cast_ofNat] at hbins
  apply toComplex_injective
  rw [toComplex_fftReal m _ hj, hbins]
  split_ifs <;> simp [toComplex_mk]

/-- The Sine samples from phase 0 with `df = k/N` are those of a sine of `k` periods in `N` samples
(40_oscillator_bank.md R102): the phase is `t k/N` modulo 1. -/
theorem sineWave_realRun {n k : Nat} (amp : ℝ) (hkn : k ≤ n) (t : Nat) (up : Bool) :
    (Num.real.sineWave (realRun (List.replicate t (.sine, (k : ℝ) / n)) (0, up)).1 ((k : ℝ) / n) amp).1
      = amp * Real.sin (2 * Real.pi * k * t / n) := by
  have hdf : (k : ℝ) / n ≤ 1 := div_le_one_of_le₀ (Nat.cast_le.2 hkn) (Nat.cast_nonneg n)
  rw [realRun_sine (by positivity) hdf t _ le_rfl one_pos, Num.real_sineWave]
  dsimp only
  rw [zero_add, Int.fract, mul_sub, mul_comm _ ((⌊_⌋ : ℤ) : ℝ), Real.sin_sub_int_mul_two_pi]
  congr 2
  ring

end Sys2Proof.Machine

/-- Settles O36: the transform is the reference DFT, and the exponentials are orthogonal. -/
theorem pureToneHasTwoBins : Obligations.PureToneHasTwoBins := by
  intro m k amp hk hkN
  refine ⟨fun j hj => fftReal_sine amp hk hkN hj, fun t up => ?_⟩
  have hsample := sineWave_realRun (n := 2 ^ m) (k := k) amp (by omega) t up
  rwa [Nat.cast_pow, Nat.cast_ofNat] at hsample

end

/-! ## The sample window buffer -/

section
open Sys2Proof Sys2Proof.Machine

namespace Sys2Proof.Machine

/-- An element index of `N` or above is refused (60_exceptions.md R206). -/
theorem indexOperand_error {n : Nat} {k : BitVec 16} (h : n ≤ k.toNat) :
    indexOperand n k = .error .index := if_neg (Nat.not_lt.2 h)

/-- A nonzero `cw[23:16]` makes every word illegal (30_encoding.md R77). -/
theorem argWordsOnly_of_opcode (op : BitVec 8) : argWordsOnly op := by
  rintro cw data s rfl hrsv
  exact runRequest_of_illegalWord (r := ⟨cw, data⟩) (.inr (.inl hrsv)) s

/-- An element read on a port that may issue it responds the element. -/
theorem accept_elementRead {i : Instr} {s : State} (sp : Space) {k : BitVec 16}
    (hp : mayIssue i s.port = true) (hk : k.toNat < s.size) :
    accept i (indexOperand s.size k) (fun k t => .next (t.respond (encR (t.memRead sp k)))) s
      = .next (s.respond (s.memRead sp k.toNat)) :=
  accept_accepted hp (indexOperand_ok hk)

/-- A command with an element index is rejected for an index of `N` or above. -/
theorem exec_index_beyond {i : Instr} {s : State} {k : BitVec 16} (hp : mayIssue i s.port = true)
    (hi : operandCode s.size i = raisedCode (indexOperand s.size k)) (hk : s.size ≤ k.toNat) :
    exec i s = .next (s.reject i.opcode .index) :=
  exec_of_failingCheck (by rw [failingCheck, if_pos hp, hi, indexOperand_error hk]; rfl)

/-- `PUSH` of a finite value on port `S` (41_sample_window_buffer.md R121). -/
theorem exec_push_of_port {v : F32} {s : State} (hp : s.port = .S) (hv : v.isFinite = true)
    (hwr : s.wr < s.size) : exec (.push v) s = .next (State.respond 0 { s with
      win := s.win.write s.wr v
      wr := (s.wr + 1) % s.size
      fill := min (s.fill + 1) s.size }) := by
  show execPush v s = _
  rw [execPush, accept_accepted (i := .push v) (by rw [hp]; rfl) (realOperand_ok hv),
    State.pushSample_next hwr, mapNext_next]

/-- `PUSH` of an infinity or a NaN is rejected (60_exceptions.md R207). -/
theorem exec_push_nonfinite {v : F32} {s : State} (hp : s.port = .S) (hv : v.isFinite = false) :
    exec (.push v) s = .next (s.reject 0x21 .nonfinite) := by
  have hbad : realOperand v = .error .nonfinite := if_neg (ne_true_of_eq_false hv)
  exact exec_of_failingCheck (by rw [hp]; exact congrArg raisedCode hbad)

/-- `SNAP` on port `A` (41_sample_window_buffer.md R123). -/
theorem exec_snap_of_port {s : State} (hp : s.port = .A) : exec .snap s =
    .next ((State.flagsAfterSnap { s with snap := Memory.fill s.size s.windowAt }).respond 0) := by
  show execSnap s = _
  rw [execSnap, accept_noOperand (i := .snap) (by rw [hp]; rfl)]

/-- What `SNAP` writes: the window, oldest first. -/
theorem exec_snap_element {s t : State} (hp : s.port = .A) (h : exec .snap s = .next t) {i : Nat}
    (hi : i < s.size) : t.memRead .snap i = s.windowAt i := by
  rw [exec_snap_of_port hp] at h
  cases h
  exact Memory.read_fill _ hi

end Sys2Proof.Machine

/-- Settles O26: `PUSH` on port `S` is the push primitive, and its errors. -/
theorem pushStoresTheSample : Obligations.PushStoresTheSample :=
  ⟨fun _ _ => exec_push_of_port, fun _ => onlyOnPort_of_mayIssue fun _ hq => beq_eq_false_iff_ne.2 hq,
    bareWordsOnly_of_not_mem_argOpcodes (by decide), fun _ _ => exec_push_nonfinite,
    fun s h => by rw [State.size, h]; exact Nat.mod_one _⟩

/-- Settles O27: `SNAP` on port `A` fills the snapshot with the window in time order, and its errors. -/
theorem snapCopiesTheRingInTimeOrder : Obligations.SnapCopiesTheRingInTimeOrder :=
  ⟨fun _ hp => ⟨_, exec_snap_of_port hp, fun _ hi => exec_snap_element hp (exec_snap_of_port hp) hi,
      rfl, rfl, rfl, rfl⟩,
    onlyOnPort_of_mayIssue fun _ hq => beq_eq_false_iff_ne.2 hq,
    bareWordsOnly_of_not_mem_argOpcodes (by decide)⟩

/-- Settles O30: each read is the admission of an index, and an index of `N` or above fails it. -/
theorem elementReadsRespondTheElement : Obligations.ElementReadsRespondTheElement := by
  refine ⟨fun k s hp hk => ?_, fun k s hp hk => ?_, fun k => ?_, argWordsOnly_of_opcode _,
    argWordsOnly_of_opcode _, argWordsOnly_of_opcode _, argWordsOnly_of_opcode _⟩
  · have hport : (s.port == .A) = true := beq_iff_eq.2 hp
    exact ⟨accept_elementRead (i := .rdsnap k) .snap hport hk, accept_elementRead (i := .rdre k) .xre hport hk,
      accept_elementRead (i := .rdim k) .xim hport hk, accept_elementRead (i := .rdbin k) .freq hport hk⟩
  · have hport : (s.port == .A) = true := beq_iff_eq.2 hp
    exact ⟨exec_index_beyond (i := .rdsnap k) hport rfl hk, exec_index_beyond (i := .rdre k) hport rfl hk,
      exec_index_beyond (i := .rdim k) hport rfl hk, exec_index_beyond (i := .rdbin k) hport rfl hk⟩
  · have hothers : ∀ q : Port, q ≠ .A → (q == .A) = false := fun _ => beq_eq_false_iff_ne.2
    exact ⟨onlyOnPort_of_mayIssue hothers, onlyOnPort_of_mayIssue hothers, onlyOnPort_of_mayIssue hothers,
      onlyOnPort_of_mayIssue hothers⟩

namespace Sys2Proof.Machine

/-! ### The window as the end of what was pushed -/

/-- Only `TICK` and `PUSH` write the state of the synthesis. -/
theorem exec_sameSynthesis {i : Instr} {s t : State} (h : exec i s = .next t) (htick : i ≠ .tick)
    (hpush : ∀ v, i ≠ .push v) : sameSynthesis s t := by
  cases i
  case tick => exact absurd rfl htick
  case push v => exact absurd rfl (hpush v)
  all_goals
    unfold exec at h
    obtain ⟨code, rfl⟩ | ⟨-, a, -, hb⟩ := accept_eq_next h
    · exact ⟨rfl, rfl, rfl, rfl, rfl, rfl⟩
    · cases hb
      exact ⟨rfl, rfl, rfl, rfl, rfl, rfl⟩

/-- The window of `t` is that of `s` with `v` pushed into it (41_sample_window_buffer.md R120). -/
structure State.PushedTo (v : F32) (s t : State) : Prop where
  win : t.win = s.win.write s.wr v
  wr : t.wr = (s.wr + 1) % s.size
  fill : t.fill = min (s.fill + 1) s.size

/-- A command pushes one value, and writes the window by that push, or none, and keeps the window. -/
theorem exec_pushed {p : Port} {i : Instr} {s t : State} (hwr : s.wr < s.size)
    (h : exec i { s with port := p } = .next t) :
    (pushed p i s = [] ∧ sameSynthesis s t) ∨ ∃ v, pushed p i s = [v] ∧ s.PushedTo v t := by
  by_cases hp : p = .S
  · subst hp
    cases i
    case tick =>
      cases (exec_tick_of_port (s := { s with port := .S }) rfl hwr).symm.trans h
      exact .inr ⟨_, rfl, rfl, rfl, rfl⟩
    case push v =>
      cases hv : v.isFinite with
      | true =>
        cases (exec_push_of_port (s := { s with port := .S }) rfl hv hwr).symm.trans h
        exact .inr ⟨v, if_pos hv, rfl, rfl, rfl⟩
      | false =>
        cases (exec_push_nonfinite (s := { s with port := .S }) rfl hv).symm.trans h
        exact .inl ⟨if_neg (by simp [hv]), rfl, rfl, rfl, rfl, rfl, rfl⟩
    all_goals
      have hsame := exec_sameSynthesis h nofun nofun
      exact .inl ⟨rfl, hsame⟩
  · have hnone : pushed p i s = [] := by
      cases p
      case S => exact absurd rfl hp
      all_goals rfl
    exact .inl ⟨hnone, (exec_keepsOthers h).synthesis hp⟩

/-- The window holds the end of `vs`, the values pushed since reset: in time order it is the last `N` of
`N` zeros followed by `vs` (41_sample_window_buffer.md R122, R124). -/
structure State.HoldsRecent (vs : List F32) (s : State) : Prop where
  wr : s.wr = vs.length % s.size
  fill : s.fill = min vs.length s.size
  canonical : s.win.wf
  element : ∀ i, i < s.size →
    (List.replicate s.size Memory.blank ++ vs)[vs.length + i]? = some (s.windowAt i)

theorem State.size_pos (s : State) : 0 < s.size := Nat.two_pow_pos _

theorem State.HoldsRecent.wr_lt {vs : List F32} {s : State} (h : s.HoldsRecent vs) : s.wr < s.size := by
  rw [h.wr]
  exact Nat.mod_lt _ s.size_pos

theorem State.size_of_log2n {s t : State} (h : t.log2n = s.log2n) : t.size = s.size :=
  congrArg (fun n : Fin 16 => 2 ^ n.val) h

theorem State.resetWith_holdsRecent (c : Cfg) : (State.resetWith c).HoldsRecent [] where
  wr := (Nat.zero_mod _).symm
  fill := (Nat.zero_min _).symm
  canonical := (State.resetWith_memory_wf c .win).1
  element i hi := by
    rw [List.append_nil, List.length_nil, Nat.zero_add, List.getElem?_replicate_of_lt hi, State.windowAt,
      State.resetWith_memRead]

theorem State.HoldsRecent.of_sameSynthesis {vs : List F32} {s t : State} (h : s.HoldsRecent vs)
    (hlog : t.log2n = s.log2n) (hsame : sameSynthesis s t) : t.HoldsRecent vs := by
  obtain ⟨-, -, hwin, hwr, hfill, -⟩ := hsame
  have hsize := State.size_of_log2n hlog
  have hwindow : t.windowAt = s.windowAt := by
    funext i
    simp only [State.windowAt, State.memRead, State.memory, hwin, hwr, hsize]
  exact ⟨by rw [hwr, hsize, h.wr], by rw [hfill, hsize, h.fill], by rw [hwin]; exact h.canonical,
    by rw [hsize, hwindow]; exact h.element⟩

/-- In time order a push moves every element one place towards the oldest and ends with the value pushed. -/
theorem State.PushedTo.windowAt {v : F32} {s t : State} (h : s.PushedTo v t) (hwr : s.wr < s.size)
    (hwf : s.win.wf) (hsize : t.size = s.size) {i : Nat} (hi : i < s.size) :
    t.windowAt i = if i + 1 = s.size then v else s.windowAt (i + 1) := by
  have hplace : (t.wr + i) % t.size = (s.wr + (i + 1)) % s.size := by
    rw [h.wr, hsize, Nat.mod_add_mod, Nat.add_right_comm, Nat.add_assoc]
  have hnewest : (s.wr + (i + 1)) % s.size = s.wr ↔ i + 1 = s.size := by
    rcases Nat.lt_or_ge (s.wr + (i + 1)) s.size with hlt | hle
    · rw [Nat.mod_eq_of_lt hlt]
      omega
    · rw [Nat.mod_eq_sub_mod hle, Nat.mod_eq_of_lt (by omega)]
      omega
  rw [State.windowAt, hplace, State.memRead, State.memory, h.win, Memory.read_write hwf,
    if_congr hnewest rfl rfl]
  rfl

theorem State.HoldsRecent.push {vs : List F32} {v : F32} {s t : State} (h : s.HoldsRecent vs)
    (hlog : t.log2n = s.log2n) (hpush : s.PushedTo v t) : t.HoldsRecent (vs ++ [v]) := by
  have hsize := State.size_of_log2n hlog
  refine ⟨?_, ?_, ?_, fun i hi => ?_⟩
  · rw [hpush.wr, h.wr, hsize, Nat.mod_add_mod, List.length_append, List.length_singleton]
  · rw [hpush.fill, h.fill, hsize, List.length_append, List.length_singleton]
    omega
  · rw [hpush.win]
    exact Memory.write_wf h.canonical _ _
  · rw [hsize] at hi
    have hlen : (List.replicate s.size Memory.blank ++ vs).length = s.size + vs.length := by
      rw [List.length_append, List.length_replicate]
    have hplace : (vs ++ [v]).length + i = vs.length + (i + 1) := by
      rw [List.length_append, List.length_singleton, Nat.add_assoc, Nat.add_comm 1]
    rw [hpush.windowAt h.wr_lt h.canonical hsize hi, hsize, ← List.append_assoc, hplace]
    split_ifs with hlast
    · rw [hlast, Nat.add_comm, ← hlen, List.getElem?_concat_length]
    · rw [List.getElem?_append_left (by omega)]
      exact h.element (i + 1) (by omega)

/-- The values that a list of commands pushes: those of its first command, then those of the rest. -/
theorem pushedAll_cons_of_next {p : Port} {i : Instr} {s u : State}
    (h : exec i { s with port := p } = .next u) (rest : List (Port × Instr)) :
    pushedAll ((p, i) :: rest) s = pushed p i s ++ pushedAll rest u := by
  rw [pushedAll, h]

/-- Commands keep the window size. -/
theorem execAll_log2n {cmds : List (Port × Instr)} : ∀ {s t : State},
    execAll cmds s = .next t → t.log2n = s.log2n := by
  induction cmds with
  | nil =>
    intro s t h
    cases h
    rfl
  | cons c rest ih =>
    intro s t h
    obtain ⟨u, hu, ht⟩ := execAll_cons_eq_next h
    exact (ih ht).trans (exec_served hu).log2n

/-- After any commands the window holds the end of what was pushed before and by them. -/
theorem execAll_holdsRecent {cmds : List (Port × Instr)} : ∀ {vs : List F32} {s t : State},
    s.HoldsRecent vs → execAll cmds s = .next t → t.HoldsRecent (vs ++ pushedAll cmds s) := by
  induction cmds with
  | nil =>
    intro vs s t hs h
    cases h
    rwa [pushedAll, List.append_nil]
  | cons c rest ih =>
    intro vs s t hs h
    obtain ⟨u, hu, ht⟩ := execAll_cons_eq_next h
    have hlog : u.log2n = s.log2n := (exec_served hu).log2n
    rw [pushedAll_cons_of_next hu, ← List.append_assoc]
    refine ih ?_ ht
    obtain ⟨hnone, hsame⟩ | ⟨v, hv, hpush⟩ := exec_pushed hs.wr_lt hu
    · rw [hnone, List.append_nil]
      exact hs.of_sameSynthesis hlog hsame
    · rw [hv]
      exact hs.push hlog hpush

theorem execAll_reset_holdsRecent {c : Cfg} {cmds : List (Port × Instr)} {t : State}
    (h : execAll cmds (State.resetWith c) = .next t) : t.HoldsRecent (pushedAll cmds (State.resetWith c)) :=
  execAll_holdsRecent (State.resetWith_holdsRecent c) h

section
variable {vs : List F32} {s : State} (h : s.HoldsRecent vs) {i : Nat}
include h

/-- The places that the window still lacks read as zero (41_sample_window_buffer.md R124). -/
theorem State.HoldsRecent.windowAt_lacking (hi : i + vs.length < s.size) :
    s.windowAt i = F32.ofInt 0 := by
  have helem := h.element i (by omega)
  rw [List.getElem?_append_left (by rw [List.length_replicate]; omega),
    List.getElem?_replicate_of_lt (by omega)] at helem
  rw [← Option.some.inj helem, F32.ofInt_zero]
  rfl

/-- The other places read as the most recent values, oldest first. -/
theorem State.HoldsRecent.windowAt_recent (hi : i < s.size) (hle : s.size ≤ i + vs.length) :
    vs[i + vs.length - s.size]? = some (s.windowAt i) := by
  have helem := h.element i hi
  rwa [List.getElem?_append_right (by rw [List.length_replicate]; omega), List.length_replicate,
    Nat.add_comm] at helem

end

end Sys2Proof.Machine

/-- Settles O28: the ring is the window in time order, whose place `N - 1 - j` holds the `j`-th most recent
value; before the window is warm nothing has wrapped and `WR = FILL`. -/
theorem ringHoldsTheMostRecentSamples : Obligations.RingHoldsTheMostRecentSamples := by
  intro c cmds t hc ht vs
  have h : t.HoldsRecent vs := execAll_reset_holdsRecent ht
  have hsize : t.size = 2 ^ c.log2n := by
    rw [State.size, execAll_log2n ht, State.resetWith_log2n hc]
  refine ⟨hsize, h.wr, h.fill, fun j hj => ?_, fun i hfill hi => ?_⟩
  · have hrecent := h.windowAt_recent (i := t.size - 1 - j) (by omega) (by omega)
    rwa [show t.size - 1 - j + vs.length - t.size = vs.length - 1 - j by omega] at hrecent
  · rw [h.fill] at hfill
    have hwr : t.wr = vs.length := by rw [h.wr, Nat.mod_eq_of_lt (by omega)]
    have hzero := h.windowAt_lacking (i := i - vs.length) (by omega)
    rwa [State.windowAt, hwr, Nat.add_sub_cancel' (by omega), Nat.mod_eq_of_lt hi] at hzero

/-- Settles O29: `SNAP` copies the window in time order. -/
theorem snapshotIsTheZeroPaddedRecentPast : Obligations.SnapshotIsTheZeroPaddedRecentPast := by
  intro c cmds t u _ ht hu vs i hi
  have h : t.HoldsRecent vs := execAll_reset_holdsRecent ht
  have hsize : u.size = t.size := State.size_of_log2n (exec_served hu).log2n
  rw [hsize] at hi
  rw [hsize, exec_snap_element rfl hu hi]
  exact ⟨h.windowAt_lacking, h.windowAt_recent hi⟩

end

/-! ## The analysis commands -/

section
open Sys2Proof Sys2Proof.Machine

namespace Sys2Proof.Machine

/-- A fill of `N` elements leaves the elements at `N` and above as they were (20_memory.md R50, R54). -/
theorem Memory.read_fill_unchanged {m : Memory} {n k : Nat} (h : m.within n) (f : Nat → F32) (hk : n ≤ k) :
    Memory.read (Memory.fill n f) k = Memory.read m k := by
  rw [Memory.read_fill_beyond f hk, Memory.read_of_within h hk]

/-- What an analysis command whose memories are `own` leaves of a state, beside the synthesis: the control
registers, every other memory, and in its own memories the elements at `N` and above. -/
structure State.AnalysisFrame (own : List Space) (s t : State) : Prop where
  control : sameControl s t
  others : ∀ sp, sp ∉ own → t.memory sp = s.memory sp
  beyond : s.memoryOk → ∀ sp ∈ own, ∀ k, s.size ≤ k → t.memRead sp k = s.memRead sp k

theorem State.reject_analysisFrame (own : List Space) (op : BitVec 8) (code : ErrCode) (s : State) :
    s.AnalysisFrame own (s.reject op code) :=
  ⟨⟨rfl, rfl, rfl, rfl, rfl⟩, fun _ _ => State.reject_memory .., fun _ _ _ _ _ => State.reject_memRead ..⟩

theorem exec_snap_frame {s t : State} (h : exec .snap s = .next t) : s.AnalysisFrame [.snap] t := by
  unfold exec at h
  obtain ⟨code, rfl⟩ | ⟨-, -, -, hb⟩ := accept_eq_next h
  · exact s.reject_analysisFrame _ _ code
  · cases hb
    refine ⟨⟨rfl, rfl, rfl, rfl, rfl⟩, fun sp hsp => ?_, fun hm => List.forall_mem_singleton.2
      fun k hk => ?_⟩
    · cases sp
      case snap => exact absurd (by simp) hsp
      all_goals rfl
    · exact Memory.read_fill_unchanged (hm .snap).2 _ hk

theorem exec_fft_frame {s t : State} (h : exec .fft s = .next t) :
    s.AnalysisFrame [.xre, .xim] t ∧ t.snapv = s.snapv := by
  unfold exec at h
  obtain ⟨code, rfl⟩ | ⟨-, -, -, hb⟩ := accept_eq_next h
  · exact ⟨s.reject_analysisFrame _ _ code, rfl⟩
  · cases hb
    refine ⟨⟨⟨rfl, rfl, rfl, rfl, rfl⟩, fun sp hsp => ?_, fun hm => List.forall_mem_cons.2
      ⟨fun k hk => ?_, List.forall_mem_singleton.2 fun k hk => ?_⟩⟩, rfl⟩
    · cases sp
      case xre | xim => exact absurd (by simp) hsp
      all_goals rfl
    · exact Memory.read_fill_unchanged (hm .xre).2 _ hk
    · exact Memory.read_fill_unchanged (hm .xim).2 _ hk

theorem exec_mag_frame {s t : State} (h : exec .mag s = .next t) :
    s.AnalysisFrame [.freq] t ∧ t.snapv = s.snapv ∧ t.specv = s.specv := by
  unfold exec at h
  obtain ⟨code, rfl⟩ | ⟨-, -, -, hb⟩ := accept_eq_next h
  · exact ⟨s.reject_analysisFrame _ _ code, rfl, rfl⟩
  · cases hb
    refine ⟨⟨⟨rfl, rfl, rfl, rfl, rfl⟩, fun sp hsp => ?_, fun hm => List.forall_mem_singleton.2
      fun k hk => ?_⟩, rfl, rfl⟩
    · cases sp
      case freq => exact absurd (by simp) hsp
      all_goals rfl
    · exact Memory.read_fill_unchanged (hm .freq).2 _ hk

theorem State.AnalysisFrame.memRead {own : List Space} {s t : State} (h : s.AnalysisFrame own t) {sp : Space}
    (hsp : sp ∉ own) : t.memRead sp = s.memRead sp := by
  funext k
  rw [State.memRead, h.others sp hsp, State.memRead]

/-- An analysis command keeps the synthesis, the parameters and the interface, and changes `ERR` by a rejection
only. -/
theorem exec_analysis_keeps {i : Instr} {s t : State} (h : exec i s = .next t)
    (hi : i ∈ [Instr.snap, .fft, .mag]) :
    sameSynthesis s t ∧ sameParameters s t ∧ sameInterface s t ∧ errKept i s t :=
  ⟨exec_sameSynthesis h (by rintro rfl; simp at hi) (by rintro v rfl; simp at hi),
    (exec_keepsOthers h).parameters, (exec_served h).interface,
    exec_errKept (by rintro rfl; simp at hi) h⟩

end Sys2Proof.Machine

/-- Settles O41: the frame of each of the three commands, with the synthesis, the parameters, the interface and
`ERR` as they leave them. -/
theorem analysisCommandsFrame : Obligations.AnalysisCommandsFrame := by
  intro s t i h
  refine ⟨?_, ?_, ?_⟩ <;> rintro rfl
  · obtain ⟨hsyn, hpar, hint, herr⟩ := exec_analysis_keeps h (by simp)
    have hf := exec_snap_frame h
    exact ⟨hsyn, hf.control, hpar, hint, herr, fun sp k hsp => by rw [hf.memRead (by simpa using hsp)],
      fun hm => hf.beyond hm _ (by simp)⟩
  · obtain ⟨hsyn, hpar, hint, herr⟩ := exec_analysis_keeps h (by simp)
    obtain ⟨hf, hsnapv⟩ := exec_fft_frame h
    exact ⟨hsyn, hf.control, hpar, hint, herr, hsnapv,
      fun sp k hre him => by rw [hf.memRead (by simp [hre, him])],
      fun hm k hk => Prod.ext (hf.beyond hm .xre (by simp) k hk) (hf.beyond hm .xim (by simp) k hk)⟩
  · obtain ⟨hsyn, hpar, hint, herr⟩ := exec_analysis_keeps h (by simp)
    obtain ⟨hf, hsnapv, hspecv⟩ := exec_mag_frame h
    exact ⟨hsyn, hf.control, hpar, hint, herr, hsnapv, hspecv,
      fun sp k hsp => by rw [hf.memRead (by simpa using hsp)], fun hm => hf.beyond hm _ (by simp)⟩

namespace Sys2Proof.Machine

/-! ### The analysis pass -/

/-- `FFT` on port `A` (42_fft_butterfly.md R147). -/
theorem exec_fft_of_port {s : State} (hp : s.port = .A) : exec .fft s = .next (fftWith Num.f32 s) := by
  show execFft s = _
  rw [execFft, accept_noOperand (i := .fft) (by rw [hp]; rfl)]

/-- `MAG` on port `A` (43_magnitude_extractor.md R161). -/
theorem exec_mag_of_port {s : State} (hp : s.port = .A) : exec .mag s =
    .next ((State.flagsAfterMag
      { s with freq := Memory.fill s.size fun k => Num.f32.cabs (s.spectrum k) }).respond 0) := by
  show execMag s = _
  rw [execMag, accept_noOperand (i := .mag) (by rw [hp]; rfl)]

/-- What `SNAP` writes of the flags. -/
theorem exec_snap_snapv {s t : State} (hp : s.port = .A) (h : exec .snap s = .next t) : t.snapv = true := by
  rw [exec_snap_of_port hp] at h
  cases h
  rfl

/-- What `FFT` writes: the transform of the snapshot, which is then valid. -/
theorem exec_fft_spectrum {s t : State} (hp : s.port = .A) (h : exec .fft s = .next t) :
    t.specv = true
      ∧ ∀ k, k < s.size → t.spectrum k = Num.f32.fftReal s.log2n.val (s.memRead .snap) k := by
  rw [exec_fft_of_port hp] at h
  cases h
  exact ⟨rfl, fun k hk => Prod.ext (Memory.read_fill _ hk) (Memory.read_fill _ hk)⟩

/-- What `MAG` writes: the moduli of the spectrum, valid where the spectrum is. -/
theorem exec_mag_element {s t : State} (hp : s.port = .A) (h : exec .mag s = .next t) :
    t.magv = s.specv ∧ ∀ k, k < s.size → t.memRead .freq k = Num.f32.cabs (s.spectrum k) := by
  rw [exec_mag_of_port hp] at h
  cases h
  exact ⟨rfl, fun k hk => Memory.read_fill _ hk⟩

theorem sameAnalysis.memRead {s t : State} (h : sameAnalysis s t) {sp : Space} (hsp : sp ≠ .win) :
    t.memRead sp = s.memRead sp := by
  funext k
  rw [State.memRead, h.memory hsp, State.memRead]

theorem sameAnalysis.spectrum {s t : State} (h : sameAnalysis s t) : t.spectrum = s.spectrum := by
  funext k
  rw [State.spectrum, h.memRead (sp := .xre) nofun, h.memRead (sp := .xim) nofun, State.spectrum]

end Sys2Proof.Machine

/-- Settles O37: each command of the pass finds what the one before it left, since the commands between are of
other ports, and neither `FFT` nor `MAG` writes the snapshot. -/
theorem analysisPassIsOfOneInstant : Obligations.AnalysisPassIsOfOneInstant := by
  intro s t1 t2 t3 t4 t5 between1 between2 hb1 hb2 hsnap h12 hfft h34 hmag
  have hana12 : sameAnalysis t1 t2 := execAll_sameAnalysis hb1 h12
  have hana34 : sameAnalysis t3 t4 := execAll_sameAnalysis hb2 h34
  have hlog2 : t2.log2n = s.log2n := (execAll_log2n h12).trans (exec_served hsnap).log2n
  have hlog4 : t4.log2n = s.log2n := (execAll_log2n h34).trans ((exec_served hfft).log2n.trans hlog2)
  obtain ⟨hspecv3, hspectrum⟩ := exec_fft_spectrum rfl hfft
  obtain ⟨hmagv5, hfreq⟩ := exec_mag_element rfl hmag
  obtain ⟨hframe3, hsnapv3⟩ := exec_fft_frame hfft
  obtain ⟨hframe5, hsnapv5, hspecv5⟩ := exec_mag_frame hmag
  have hsnapshot : t5.memRead .snap = t2.memRead .snap :=
    calc t5.memRead .snap = t4.memRead .snap := hframe5.memRead (by decide)
      _ = t3.memRead .snap := hana34.memRead nofun
      _ = t2.memRead .snap := hframe3.memRead (by decide)
  have hsnapshot2 : t2.memRead .snap = t1.memRead .snap := hana12.memRead nofun
  have hspectrum34 : t4.spectrum = t3.spectrum := hana34.spectrum
  obtain ⟨-, -, -, -, hsnapv12, -⟩ := hana12
  obtain ⟨-, -, -, -, hsnapv34, hspecv34, -⟩ := hana34
  have hspecv4 : t4.specv = true := hspecv34.trans hspecv3
  have hsnapv2 : t2.snapv = true := hsnapv12.trans (exec_snap_snapv rfl hsnap)
  refine ⟨hsnapv5.trans (hsnapv34.trans (hsnapv3.trans hsnapv2)), hspecv5.trans hspecv4,
    hmagv5.trans hspecv4, fun k hk => ⟨?_, ?_⟩⟩
  · have hk2 : k < t2.size := by rwa [State.size_of_log2n hlog2]
    have hk4 : k < t4.size := by rwa [State.size_of_log2n hlog4]
    calc t5.memRead .freq k = Num.f32.cabs (t4.spectrum k) := hfreq k hk4
      _ = Num.f32.cabs (t3.spectrum k) := by rw [hspectrum34]
      _ = Num.f32.cabs (Num.f32.fftReal t2.log2n.val (t2.memRead .snap) k) :=
        congrArg _ (hspectrum k hk2)
      _ = Num.f32.cabs (Num.f32.fftReal s.log2n.val (t5.memRead .snap) k) := by rw [hlog2, hsnapshot]
  · rw [hsnapshot, hsnapshot2]
    exact exec_snap_element rfl hsnap hk

end

/-! ## The transform -/

section
open Sys2Proof Sys2Proof.Machine

namespace Sys2Proof.Machine

/-! ### The recursion, one level at a time -/

section
variable {R : Type} {num : Num R} {m : Nat} {x : Nat → R × R}

/-- Output `k` of a transform of `2^(m+1)` values is the upper output of butterfly `k` (42_fft_butterfly.md
R143). -/
theorem Num.fftRec_succ_low {k : Nat} (hk : k < 2 ^ m) :
    num.fftRec (m + 1) x k = (num.bfly (num.fftRec m (fun t => x (2 * t)) k)
      (num.fftRec m (fun t => x (2 * t + 1)) k) (num.twiddle (2 * 2 ^ m) k)).1 := by
  simp only [Num.fftRec, if_pos hk, Nat.mod_eq_of_lt hk]

/-- Output `k + 2^m` is the lower output of butterfly `k` (42_fft_butterfly.md R143). -/
theorem Num.fftRec_succ_high {k : Nat} (hk : k < 2 ^ m) :
    num.fftRec (m + 1) x (k + 2 ^ m) = (num.bfly (num.fftRec m (fun t => x (2 * t)) k)
      (num.fftRec m (fun t => x (2 * t + 1)) k) (num.twiddle (2 * 2 ^ m) k)).2 := by
  have hhigh : ¬ k + 2 ^ m < 2 ^ m := Nat.not_lt.2 (Nat.le_add_left ..)
  simp only [Num.fftRec, if_neg hhigh, Nat.add_mod_right, Nat.mod_eq_of_lt hk]

end

/-- The twiddle factor of a transform of `2^(m+1)` values in `NUM_F32` (42_fft_butterfly.md R141). -/
theorem Num.f32_twiddle (m k : Nat) : Num.f32.twiddle (2 * 2 ^ m) k =
    Num.f32.cexpm (F32.div (F32.mul 0x40C90FDB (F32.ofInt k)) (F32.ofInt (2 ^ (m + 1)))) := by
  have hsize : ((2 * 2 ^ m : Nat) : Int) = 2 ^ (m + 1) := by push_cast; exact (pow_succ' ..).symm
  rw [Num.twiddle, hsize]
  rfl

/-! ### Linearity -/

/-- Both outputs of a butterfly are linear in its inputs (42_fft_butterfly.md R142). -/
theorem toComplex_bfly_linear {a b : ℂ} {e e₁ e₂ o o₁ o₂ : ℝ × ℝ} (w : ℝ × ℝ)
    (he : toComplex e = a * toComplex e₁ + b * toComplex e₂)
    (ho : toComplex o = a * toComplex o₁ + b * toComplex o₂) :
    toComplex (Num.real.bfly e o w).1
        = a * toComplex (Num.real.bfly e₁ o₁ w).1 + b * toComplex (Num.real.bfly e₂ o₂ w).1
      ∧ toComplex (Num.real.bfly e o w).2
        = a * toComplex (Num.real.bfly e₁ o₁ w).2 + b * toComplex (Num.real.bfly e₂ o₂ w).2 := by
  simp only [Num.bfly, toComplex_cadd, toComplex_csub, toComplex_cmul, he, ho]
  constructor <;> ring

/-! ### The mirrored spectrum -/

/-- The reference DFT of a real sequence at bin `n - k` is the conjugate of bin `k` (42_fft_butterfly.md
R150): the two twiddle angles of each element differ by whole turns. -/
theorem dft_size_sub {n k : Nat} (hn : 0 < n) (hk : k ≤ n) (x : Nat → ℝ) :
    dft n (fun t => (x t : ℂ)) (n - k) = (starRingEnd ℂ) (dft n (fun t => (x t : ℂ)) k) := by
  have hn' : (n : ℂ) ≠ 0 := Nat.cast_ne_zero.2 hn.ne'
  rw [dft, dft, map_sum]
  refine Finset.sum_congr rfl fun t _ => ?_
  rw [map_mul, Complex.conj_ofReal, ← Complex.exp_conj]
  refine congrArg ((x t : ℂ) * ·) (Complex.exp_eq_exp_iff_exists_int.2 ⟨-t, ?_⟩)
  have hangle : (starRingEnd ℂ) (-(Complex.I * (2 * Real.pi * k * t / n)))
      = Complex.I * (2 * Real.pi * k * t / n) := by simp [map_ofNat]
  rw [hangle, Nat.cast_sub hk]
  push_cast
  field_simp
  ring

/-- The modulus of a pair does not see the sign of its imaginary part. -/
theorem Num.real_cabs_neg_im (a b : ℝ) : Num.real.cabs (a, -b) = Num.real.cabs (a, b) :=
  congrArg (fun r => Real.sqrt (a * a + r)) (neg_mul_neg b b)

end Sys2Proof.Machine

/-- Settles O31: `FFT` by its completion and what it writes, and each output of the recursion is one output of
a butterfly. -/
theorem fftTransformsTheSnapshot : Obligations.FftTransformsTheSnapshot := by
  refine ⟨fun s hp => ⟨_, exec_fft_of_port hp, (exec_fft_spectrum hp (exec_fft_of_port hp)).2, rfl⟩,
    onlyOnPort_of_mayIssue fun _ hq => beq_eq_false_iff_ne.2 hq,
    bareWordsOnly_of_not_mem_argOpcodes (by decide), fun _ _ => rfl, fun m x k hk => ⟨?_, ?_⟩⟩
  · rw [Num.fftRec_succ_low hk, Num.f32_twiddle]
    rfl
  · rw [Num.fftRec_succ_high hk, Num.f32_twiddle]
    rfl

/-- Settles O33, by the splitting of the reference DFT into even and odd elements (`toComplex_fftRec`). -/
theorem fftEqualsTheReferenceDft : Obligations.FftEqualsTheReferenceDft := toComplex_fftRec

/-- Settles O34, by induction on the number of levels: every output is an output of a butterfly, which is
linear. -/
theorem fftIsLinear : Obligations.FftIsLinear := by
  intro m a b
  induction m with
  | zero => exact fun x y z k hz => hz k
  | succ m ih =>
    intro x y z k hz
    have hbfly := toComplex_bfly_linear (Num.real.twiddle (2 * 2 ^ m) (k % 2 ^ m))
      (ih _ _ _ (k % 2 ^ m) fun t => hz (2 * t)) (ih _ _ _ (k % 2 ^ m) fun t => hz (2 * t + 1))
    simp only [Num.fftRec]
    split_ifs
    · exact hbfly.1
    · exact hbfly.2

/-- Settles O35: the transform is the reference DFT, whose bins of a real sequence are conjugate in pairs. -/
theorem spectrumOfARealWindowIsMirrored : Obligations.SpectrumOfARealWindowIsMirrored := by
  intro m x k h1 hk
  have hmirror : Num.real.fftReal m x (2 ^ m - k)
      = ((Num.real.fftReal m x k).1, -(Num.real.fftReal m x k).2) := by
    apply toComplex_injective
    calc toComplex (Num.real.fftReal m x (2 ^ m - k))
        = dft (2 ^ m) (fun t => (x t : ℂ)) (2 ^ m - k) := toComplex_fftReal m x (by omega)
      _ = (starRingEnd ℂ) (dft (2 ^ m) (fun t => (x t : ℂ)) k) :=
        dft_size_sub (Nat.two_pow_pos m) hk.le x
      _ = (starRingEnd ℂ) (toComplex (Num.real.fftReal m x k)) := by rw [toComplex_fftReal m x hk]
      _ = toComplex ((Num.real.fftReal m x k).1, -(Num.real.fftReal m x k).2) := rfl
  exact ⟨hmirror, by rw [hmirror, Num.real_cabs_neg_im]⟩

end

/-! ## The magnitude extractor -/

section
open Sys2Proof Sys2Proof.Machine

namespace Sys2Proof

/-- The free NaN is a NaN whatever its sign and payload: its exponent field is all ones and the quiet bit of its
fraction is set. -/
theorem F32.isNaN_freeNaN (op : FloatOp) (x y : F32) : (F32.freeNaN op x y).isNaN = true := by
  have hexp : (F32.freeNaN op x y).expField = 255 := by
    rw [F32.expField, F32.freeNaN, BitVec.extractLsb'_or]
    exact congrArg BitVec.toNat (BitVec.or_allOnes (x := (Config.nanBits op x y).extractLsb' 23 8))
  have hfrac : (F32.freeNaN op x y).frac ≠ 0 := by
    rw [F32.frac, F32.freeNaN, BitVec.extractLsb'_or]
    intro hzero
    have hquiet := (BitVec.or_eq_zero_iff.1 (BitVec.eq_of_toNat_eq (y := 0) hzero)).2
    exact absurd hquiet (by decide)
  simp [F32.isNaN, hexp, hfrac]

/-! ### A NaN operand gives a NaN (00_scope.md R14) -/

theorem F32.isNaN_add {x y : F32} (h : x.isNaN = true ∨ y.isNaN = true) : (F32.add x y).isNaN = true := by
  rw [F32.add, F32.sum, if_pos ((Bool.or_eq_true _ _).mpr h)]
  exact F32.isNaN_freeNaN .add x y

theorem F32.isNaN_mul {x y : F32} (h : x.isNaN = true ∨ y.isNaN = true) : (F32.mul x y).isNaN = true := by
  rw [F32.mul, if_pos ((Bool.or_eq_true _ _).mpr h)]
  exact F32.isNaN_freeNaN .mul x y

theorem F32.isNaN_sqrt {x : F32} (h : x.isNaN = true) : (F32.sqrt x).isNaN = true := by
  rw [F32.sqrt, if_pos h]
  exact F32.isNaN_freeNaN .sqrt x x

end Sys2Proof

namespace Sys2Proof.Machine

/-- The modulus of a number with a NaN part is a NaN: the part's square, the sum and the root each pass it on. -/
theorem Num.isNaN_f32_cabs {a b : F32} (h : a.isNaN = true ∨ b.isNaN = true) :
    (Num.f32.cabs (a, b)).isNaN = true := by
  have hsquare : (F32.mul a a).isNaN = true ∨ (F32.mul b b).isNaN = true :=
    h.imp (fun ha => F32.isNaN_mul (.inl ha)) fun hb => F32.isNaN_mul (.inl hb)
  exact F32.isNaN_sqrt (F32.isNaN_add hsquare)

/-- In exact arithmetic a modulus is a square root. -/
theorem Num.real_cabs_nonneg (x : ℝ × ℝ) : 0 ≤ Num.real.cabs x := Real.sqrt_nonneg _

end Sys2Proof.Machine

/-- Settles O32: `MAG` by its completion and what it writes, the corner cases of `NUM_F32` computed, and a NaN
part passed on by each of the three operations. -/
theorem magComputesTheModuli : Obligations.MagComputesTheModuli := by
  have hzeros : Num.f32.cabs (0, 0) = 0 ∧ Num.f32.cabs (0x80000000, 0x80000000) = 0 := by decide +kernel
  have hoverflow : Num.f32.cabs (0x5F800000, 0) = 0x7F800000 := by decide +kernel
  have hunderflow : Num.f32.cabs (0x0DA24260, 0) = 0 := by decide +kernel
  exact ⟨fun s hp => ⟨_, exec_mag_of_port hp, (exec_mag_element hp (exec_mag_of_port hp)).2, rfl⟩,
    onlyOnPort_of_mayIssue fun _ hq => beq_eq_false_iff_ne.2 hq,
    bareWordsOnly_of_not_mem_argOpcodes (by decide),
    hzeros.1, hzeros.2, hoverflow, hunderflow, fun _ _ => Num.isNaN_f32_cabs, Num.real_cabs_nonneg⟩

end

/-! ## Binary32: signs and NaNs of the control surface's operations -/

section
open Sys2Proof Sys2Proof.Machine

namespace Sys2Proof

@[simp] theorem F32.zero_isNaN : F32.isNaN 0#32 = false := by decide
@[simp] theorem F32.zero_toInt : F32.toInt 0#32 = 0 := by decide

/-! ### Comparisons with zero, by the integer that a datum stands for -/

theorem F32.zero_le_iff {x : F32} : F32.le 0 x = true ↔ x.isNaN = false ∧ 0 ≤ x.toInt := by
  simp [F32.le]

theorem F32.zero_lt_iff {x : F32} : F32.lt 0 x = true ↔ x.isNaN = false ∧ 0 < x.toInt := by
  simp [F32.lt]

theorem F32.lt_zero_iff {x : F32} : F32.lt x 0 = true ↔ x.isNaN = false ∧ x.toInt < 0 := by
  simp [F32.lt]

/-- A packed magnitude without sign is not below zero. -/
theorem F32.zero_le_pack {bits : Nat} (h : bits ≤ 0x7F800000) : F32.le 0 (F32.pack false bits) = true :=
  F32.zero_le_iff.2 ⟨F32.pack_isNaN h, F32.toInt_nonneg (F32.pack_sign (by omega))⟩

/-- A datum above zero has no sign. -/
theorem F32.sign_of_pos {x : F32} (h : 0 < x.toInt) : x.sign = false := by
  by_contra hs
  rw [Bool.not_eq_false] at hs
  simp only [F32.toInt, hs, if_true] at h
  omega

theorem F32.mag_ne_zero_of_isInf {x : F32} (h : x.isInf = true) : x.mag ≠ 0 := by
  obtain ⟨hexp, -⟩ := Bool.and_eq_true_iff.1 h
  rw [F32.mag, if_neg (by rw [beq_iff_eq.1 hexp]; decide), Nat.shiftLeft_eq]
  positivity

/-- A datum that is no NaN times a finite datum other than zero: a magnitude up to the infinity's with the sign
of a product, so no NaN. -/
theorem F32.mul_eq_pack {x y : F32} (hx : x.isNaN = false) (hy : y.isFinite = true) (hm : y.mag ≠ 0) :
    ∃ bits, bits ≤ 0x7F800000 ∧ F32.mul x y = F32.pack (x.sign != y.sign) bits := by
  obtain ⟨hyinf, hynan⟩ := F32.not_inf_nan hy
  unfold F32.mul
  rw [if_neg (by simp [hx, hynan])]
  by_cases hinf : x.isInf = true
  · have hxm := F32.mag_ne_zero_of_isInf hinf
    exact ⟨_, le_rfl, by simp [hinf, hxm, hm]⟩
  · exact ⟨_, F32.roundMag_le (x.mag * y.mag) (2 ^ 149), by simp [hinf, hyinf]⟩

/-- A datum that is no NaN over a finite datum other than zero: the same. -/
theorem F32.div_eq_pack {x y : F32} (hx : x.isNaN = false) (hy : y.isFinite = true) (hm : y.mag ≠ 0) :
    ∃ bits, bits ≤ 0x7F800000 ∧ F32.div x y = F32.pack (x.sign != y.sign) bits := by
  obtain ⟨hyinf, hynan⟩ := F32.not_inf_nan hy
  unfold F32.div
  rw [if_neg (by simp [hx, hynan])]
  by_cases hinf : x.isInf = true
  · exact ⟨_, le_rfl, by simp [hinf, hyinf]⟩
  · exact ⟨_, F32.roundMag_le (x.mag * 2 ^ 149) y.mag, by simp [hinf, hyinf, hm]⟩

/-- A sum of data not below zero, the second of them finite, is not below zero. -/
theorem F32.zero_le_add {x y : F32} (hx : F32.le 0 x = true) (hy : F32.le 0 y = true)
    (hfin : y.isFinite = true) : F32.le 0 (F32.add x y) = true := by
  obtain ⟨hxnan, hxint⟩ := F32.zero_le_iff.1 hx
  obtain ⟨-, hyint⟩ := F32.zero_le_iff.1 hy
  obtain ⟨hyinf, hynan⟩ := F32.not_inf_nan hfin
  unfold F32.add F32.sum
  rw [if_neg (by simp [hxnan, hynan])]
  by_cases hinf : x.isInf = true
  · rw [if_pos hinf, if_neg (by simp [hyinf])]
    exact hx
  · rw [if_neg hinf, if_neg (by simp [hyinf])]
    by_cases hzero : x.toInt + y.toInt = 0
    · simp only [if_pos hzero]
      exact F32.zero_le_iff.2 ⟨F32.pack_isNaN (Nat.zero_le _), (F32.pack_zero_toInt _).ge⟩
    · simp only [if_neg hzero]
      rw [decide_eq_false (by omega)]
      exact F32.zero_le_pack (F32.roundMag_le _ _)

theorem F32.neg_isNaN (x : F32) : x.neg.isNaN = x.isNaN := by
  rw [F32.isNaN, F32.neg_expField, F32.neg_frac, F32.isNaN]

/-- A datum that is no NaN plus or minus a finite one is no NaN. -/
theorem F32.add_isNaN {x y : F32} (hx : x.isNaN = false) (hy : y.isFinite = true) :
    (F32.add x y).isNaN = false := by
  obtain ⟨hyinf, hynan⟩ := F32.not_inf_nan hy
  exact F32.sum_isNaN hx hynan (.inr hyinf)

theorem F32.sub_isNaN {x y : F32} (hx : x.isNaN = false) (hy : y.isFinite = true) :
    (F32.sub x y).isNaN = false := by
  obtain ⟨hyinf, hynan⟩ := F32.not_inf_nan ((F32.neg_isFinite y).trans hy)
  exact F32.sum_isNaN hx hynan (.inr hyinf)

/-- The difference of finite data: an exact zero, or the exact difference rounded once. -/
theorem F32.sub_finite {x y : F32} (hx : x.isFinite = true) (hy : y.isFinite = true) :
    F32.sub x y = if x.toInt - y.toInt = 0 then F32.pack (x.sign && !y.sign) 0
      else F32.pack (decide (x.toInt - y.toInt < 0)) (F32.roundMag (x.toInt - y.toInt).natAbs 1) := by
  have hy' : y.neg.isFinite = true := (F32.neg_isFinite y).trans hy
  simp [F32.sub, F32.sum, F32.not_inf_nan hx, F32.not_inf_nan hy', F32.neg_toInt, ← sub_eq_add_neg]

/-- `x - x` is `+0` (44_control_surface.md R178). -/
theorem F32.sub_self {x : F32} (h : x.isFinite = true) : F32.sub x x = 0 := by
  rw [F32.sub_finite h h, if_pos (Int.sub_self _), Bool.and_not_self]
  rfl

theorem F32.natAbs_toInt (x : F32) : x.toInt.natAbs = x.mag :=
  Int.natCast_inj.1 ((Int.natCast_natAbs _).trans x.abs_toInt)

/-- Zero minus a finite datum above zero is its negation: the magnitude is a datum's, which rounding keeps. -/
theorem F32.zero_sub {x : F32} (h : x.isFinite = true) (hpos : 0 < x.toInt) : F32.sub 0 x = x.neg := by
  have hmag : (F32.toInt 0 - x.toInt).natAbs = x.neg.mag := by
    rw [show F32.toInt 0 = 0 from F32.zero_toInt, Int.zero_sub, ← F32.neg_toInt, F32.natAbs_toInt]
  have hneg : F32.toInt 0 - x.toInt < 0 := by
    rw [show F32.toInt 0 = 0 from F32.zero_toInt]
    omega
  have hsign : x.neg.sign = true := by rw [F32.neg_sign, F32.sign_of_pos hpos, Bool.not_false]
  rw [F32.sub_finite (by decide) h, if_neg hneg.ne, decide_eq_true hneg, hmag,
    F32.roundMag_mag_one ((F32.neg_isFinite x).trans h), ← hsign, F32.pack_self]

/-- Every entry of the semitone table is finite and not zero. -/
theorem F32.pow2Table_finite (n : Fin 12) :
    (F32.pow2Table n).isFinite = true ∧ (F32.pow2Table n).mag ≠ 0 ∧ (F32.pow2Table n).sign = false := by
  revert n
  decide +kernel

end Sys2Proof

end

/-! ## The control surface -/

section
open Sys2Proof Sys2Proof.Machine

namespace Sys2Proof.Machine

/-- The target frequency is no NaN where the base frequency is none: the semitone's entry is finite and not zero
(44_control_surface.md R170, R171). -/
theorem Num.f32_retarget_isNaN {base : F32} (h : base.isNaN = false) (n : Fin 12) :
    (Num.f32.retarget base n).isNaN = false := by
  obtain ⟨hfin, hmag, -⟩ := F32.pow2Table_finite n
  obtain ⟨bits, hb, he⟩ := F32.mul_eq_pack h hfin hmag
  exact (congrArg F32.isNaN he).trans (F32.pack_isNaN hb)

/-- A raise gives a packed magnitude with the sign of the base. -/
theorem Num.f32_transposeUp_eq_pack {base : F32} (h : base.isNaN = false) :
    ∃ bits, bits ≤ 0x7F800000 ∧ Num.f32.transposeUp base = F32.pack base.sign bits := by
  obtain ⟨hfin, hmag, hsign⟩ := F32.pow2Table_finite 1
  obtain ⟨bits, hb, he⟩ := F32.mul_eq_pack h hfin hmag
  exact ⟨bits, hb, by rw [hsign, Bool.bne_false] at he; exact he⟩

/-- A lowering gives a packed magnitude with the sign of the base. -/
theorem Num.f32_transposeDown_eq_pack {base : F32} (h : base.isNaN = false) :
    ∃ bits, bits ≤ 0x7F800000 ∧ Num.f32.transposeDown base = F32.pack base.sign bits := by
  obtain ⟨hfin, hmag, hsign⟩ := F32.pow2Table_finite 1
  obtain ⟨bits, hb, he⟩ := F32.div_eq_pack h hfin hmag
  exact ⟨bits, hb, by rw [hsign, Bool.bne_false] at he; exact he⟩

/-- A step down, floored at zero (44_control_surface.md R178). -/
theorem Num.f32_stepDown (a step : F32) : Num.f32.stepDown a step =
    if F32.lt (F32.sub a step) 0 = true then 0 else F32.sub a step := by
  rw [← F32.ofInt_zero]
  rfl

/-- A step down keeps the amplitude from below zero, whatever the finite step (44_control_surface.md R178). -/
theorem Num.f32_stepDown_nonneg {a step : F32} (ha : F32.le 0 a = true) (hstep : step.isFinite = true) :
    F32.le 0 (Num.f32.stepDown a step) = true := by
  obtain ⟨hnan, -⟩ := F32.zero_le_iff.1 ha
  have hdiff : (F32.sub a step).isNaN = false := F32.sub_isNaN hnan hstep
  rw [Num.f32_stepDown]
  split
  · decide
  · rename_i hlt
    exact F32.zero_le_iff.2 ⟨hdiff, not_lt.1 fun h => hlt (F32.lt_zero_iff.2 ⟨hdiff, h⟩)⟩

theorem Num.f32_stepDown_isNaN {a step : F32} (ha : a.isNaN = false) (hstep : step.isFinite = true) :
    (Num.f32.stepDown a step).isNaN = false := by
  rw [Num.f32_stepDown]
  split
  · decide
  · exact F32.sub_isNaN ha hstep

/-! ### What a command can do to the control registers -/

/-- The command has written the target frequency as `Retarget` gives it (44_control_surface.md R171), and the
base frequency is kept, a finite operand, or one semitone up or down. -/
structure State.Retuned (s t : State) : Prop where
  tuned : t.tuned
  base : t.baseFreq = s.baseFreq ∨ t.baseFreq.isFinite = true
    ∨ t.baseFreq = Num.f32.transposeUp s.baseFreq ∨ t.baseFreq = Num.f32.transposeDown s.baseFreq

/-- A command that retunes makes no NaN of a base frequency that is none. -/
theorem State.Retuned.isNaN {s t : State} (h : s.Retuned t) (hbase : s.baseFreq.isNaN = false) :
    t.baseFreq.isNaN = false ∧ t.targetFreq.isNaN = false := by
  have hnan : t.baseFreq.isNaN = false := by
    obtain hb | hb | hb | hb := h.base
    · rw [hb, hbase]
    · exact (F32.not_inf_nan hb).2
    · obtain ⟨bits, hbits, he⟩ := Num.f32_transposeUp_eq_pack hbase
      rw [hb, he, F32.pack_isNaN hbits]
    · obtain ⟨bits, hbits, he⟩ := Num.f32_transposeDown_eq_pack hbase
      rw [hb, he, F32.pack_isNaN hbits]
  exact ⟨hnan, by rw [h.tuned]; exact Num.f32_retarget_isNaN hnan _⟩

/-- A command retunes the oscillator or keeps its tuning. -/
theorem exec_tuning {i : Instr} {s t : State} (h : exec i s = .next t) :
    (t.baseFreq = s.baseFreq ∧ t.semitone = s.semitone ∧ t.targetFreq = s.targetFreq) ∨ s.Retuned t := by
  cases i
  all_goals
    unfold exec at h
    obtain ⟨code, rfl⟩ | ⟨-, a, ha, hb⟩ := accept_eq_next h
    · exact .inl ⟨rfl, rfl, rfl⟩
  case setbase =>
    cases hb
    obtain ⟨rfl, hfin⟩ := realOperand_eq_ok ha
    exact .inr ⟨rfl, .inr (.inl hfin)⟩
  case trup =>
    cases hb
    exact .inr ⟨rfl, .inr (.inr (.inl rfl))⟩
  case trdn =>
    cases hb
    exact .inr ⟨rfl, .inr (.inr (.inr rfl))⟩
  case note =>
    cases hb
    exact .inr ⟨rfl, .inl rfl⟩
  case tick | push =>
    obtain ⟨u, hu, rfl⟩ := mapNext_eq_next hb
    obtain ⟨-, rfl⟩ := State.pushSample_eq_next hu
    exact .inl ⟨rfl, rfl, rfl⟩
  all_goals
    cases hb
    exact .inl ⟨rfl, rfl, rfl⟩

/-- A command keeps the amplitude or moves it one step. -/
theorem exec_amplitude {i : Instr} {s t : State} (h : exec i s = .next t) :
    t.amplitude = s.amplitude ∨ t.amplitude = Num.f32.stepUp s.amplitude s.ampStep
      ∨ t.amplitude = Num.f32.stepDown s.amplitude s.ampStep := by
  cases i
  all_goals
    unfold exec at h
    obtain ⟨code, rfl⟩ | ⟨-, a, -, hb⟩ := accept_eq_next h
    · exact .inl rfl
  case ampup =>
    cases hb
    exact .inr (.inl rfl)
  case ampdn =>
    cases hb
    exact .inr (.inr rfl)
  case tick | push =>
    obtain ⟨u, hu, rfl⟩ := mapNext_eq_next hb
    obtain ⟨-, rfl⟩ := State.pushSample_eq_next hu
    exact .inl rfl
  all_goals
    cases hb
    exact .inl rfl

/-- No command takes the amplitude below zero (10_state.md R24, 44_control_surface.md R178). -/
theorem exec_amplitude_nonneg {i : Instr} {s t : State} (ha : F32.le 0 s.amplitude = true)
    (hfin : s.ampStep.isFinite = true) (hpos : F32.lt 0 s.ampStep = true) (h : exec i s = .next t) :
    F32.le 0 t.amplitude = true := by
  obtain ⟨hnan, hint⟩ := F32.zero_lt_iff.1 hpos
  obtain hamp | hamp | hamp := exec_amplitude h <;> rw [hamp]
  · exact ha
  · exact F32.zero_le_add ha (F32.zero_le_iff.2 ⟨hnan, hint.le⟩) hfin
  · exact Num.f32_stepDown_nonneg ha hfin

/-- No request takes the amplitude below zero: a rejection keeps it. -/
theorem runRequest_amplitude_nonneg {r : Request} {s t : State} (ha : F32.le 0 s.amplitude = true)
    (hfin : s.ampStep.isFinite = true) (hpos : F32.lt 0 s.ampStep = true) (h : runRequest r s = .next t) :
    F32.le 0 t.amplitude = true := by
  obtain ⟨i, -, hi⟩ | ⟨-, rfl⟩ := runRequest_eq_next h
  · exact exec_amplitude_nonneg ha hfin hpos hi
  · exact ha

end Sys2Proof.Machine

/-- Settles O59: a retuned frequency is the product of a base that is no NaN, and a step is a sum of finite
data. -/
theorem controlCommandsProduceNoNaN : Obligations.ControlCommandsProduceNoNaN := by
  intro r s t _ hbase htarget hamp hstep h
  obtain ⟨-, hbase'⟩ := F32.not_inf_nan hbase
  obtain ⟨-, htarget'⟩ := F32.not_inf_nan htarget
  obtain ⟨-, hamp'⟩ := F32.not_inf_nan hamp
  obtain ⟨i, -, hi⟩ | ⟨-, rfl⟩ := runRequest_eq_next h
  · have ⟨hb, ht⟩ : t.baseFreq.isNaN = false ∧ t.targetFreq.isNaN = false := by
      obtain ⟨hb, -, ht⟩ | hretuned := exec_tuning hi
      · rw [hb, ht]
        exact ⟨hbase', htarget'⟩
      · exact hretuned.isNaN hbase'
    refine ⟨hb, ht, ?_⟩
    obtain ha | ha | ha := exec_amplitude hi <;> rw [ha]
    · exact hamp'
    · exact F32.add_isNaN hamp' hstep
    · exact Num.f32_stepDown_isNaN hamp' hstep
  · exact ⟨hbase', htarget', hamp'⟩

end

/-! ## The invariant of the block -/

section
open Sys2Proof Sys2Proof.Machine

namespace Sys2Proof.Machine

/-! ### Each part of the invariant speaks of some of the state's groups only -/

theorem State.ringOk.of_same {s t : State} (h : s.ringOk) (hlog : t.log2n = s.log2n)
    (hsyn : sameSynthesis s t) : t.ringOk := by
  obtain ⟨-, -, hwin, hwr, hfill, -⟩ := hsyn
  unfold State.ringOk State.memRead State.memory
  rw [State.size_of_log2n hlog, hwin, hwr, hfill]
  exact h

theorem State.flagsOk.of_same {s t : State} (h : s.flagsOk) (hlog : t.log2n = s.log2n)
    (hana : sameAnalysis s t) : t.flagsOk := by
  have hsnap : t.memRead .snap = s.memRead .snap := hana.memRead nofun
  have hfreq : t.memRead .freq = s.memRead .freq := hana.memRead nofun
  have hspectrum : t.spectrum = s.spectrum := hana.spectrum
  obtain ⟨-, -, -, -, hsnapv, hspecv, hmagv⟩ := hana
  unfold State.flagsOk
  rw [State.size_of_log2n hlog, hlog, hsnap, hfreq, hspectrum, hsnapv, hspecv, hmagv]
  exact h

theorem State.levelsOk.of_same {s t : State} (h : s.levelsOk) (hpar : sameParameters s t)
    (hamp : F32.le 0 t.amplitude = true) : t.levelsOk := by
  obtain ⟨hrate, hstep, -⟩ := hpar
  obtain ⟨-, hrateOk, hstepOk⟩ := h
  rw [State.levelsOk, hrate, hstep]
  exact ⟨hamp, hrateOk, hstepOk⟩

/-- With the synthesis and the analysis state, every memory is the same. -/
theorem memory_of_same {s t : State} (hsyn : sameSynthesis s t) (hana : sameAnalysis s t) (sp : Space) :
    t.memory sp = s.memory sp := by
  by_cases hsp : sp = .win
  · obtain ⟨-, -, hwin, -⟩ := hsyn
    rw [hsp]
    exact hwin
  · exact hana.memory hsp

/-- What the invariant speaks of beside the ports is the same. -/
structure State.SameCore (s t : State) : Prop where
  synthesis : sameSynthesis s t
  control : sameControl s t
  analysis : sameAnalysis s t
  parameters : sameParameters s t
  err : t.err = s.err

theorem State.Inv.of_sameCore {s t : State} (h : s.Inv) (hc : s.SameCore t) (hports : t.portsOk) : t.Inv := by
  obtain ⟨hsyn, ⟨-, hsemi, hbase, htarget, hamp⟩, hana, hpar, herr⟩ := hc
  have hlog : t.log2n = s.log2n := hpar.2.2
  exact {
    ring := h.ring.of_same hlog hsyn
    memory := fun sp => by rw [memory_of_same hsyn hana, State.size_of_log2n hlog]; exact h.memory sp
    err := by rw [State.errOk, herr]; exact h.err
    tuned := by rw [State.tuned, htarget, hbase, hsemi]; exact h.tuned
    flags := h.flags.of_same hlog hana
    levels := h.levels.of_same hpar (by rw [hamp]; exact h.levels.1)
    ports := hports }

theorem State.sameCore_setRequest (p : Port) (r : Option Request) (s : State) :
    s.SameCore (s.setRequest p r) := by
  cases p <;> exact ⟨⟨rfl, rfl, rfl, rfl, rfl, rfl⟩, ⟨rfl, rfl, rfl, rfl, rfl⟩,
    ⟨rfl, rfl, rfl, rfl, rfl, rfl, rfl⟩, ⟨rfl, rfl, rfl⟩, rfl⟩

/-- While `rst` is low the ports' part of the invariant speaks of `ERR` and its mark only. -/
theorem State.portsOk.of_rst_low {s t : State} (h : s.portsOk) (hr : t.rst = false) (herr : t.err = s.err)
    (hmark : t.everRejected = s.everRejected) : t.portsOk := by
  refine ⟨fun hr' => absurd (hr.symm.trans hr') Bool.false_ne_true, ?_⟩
  rw [herr, hmark]
  exact h.2

theorem State.Inv.setRequest {s : State} (h : s.Inv) (hr : s.rst = false) (p : Port) (r : Option Request) :
    (s.setRequest p r).Inv :=
  h.of_sameCore (s.sameCore_setRequest p r)
    (h.ports.of_rst_low (by rw [State.setRequest_rst, hr]) (State.setRequest_err ..)
      (State.setRequest_everRejected ..))

/-- The invariant does not speak of the schedule, the arbitration counter and the port in service. -/
theorem State.Inv.moved {s : State} (h : s.Inv) (sched : List Event) (n : Nat) (p : Port) :
    ({ s with schedule := sched, arb := n, port := p } : State).Inv :=
  ⟨h.ring, h.memory, h.err, h.tuned, h.flags, h.levels, h.ports⟩

theorem State.Inv.take {s : State} (h : s.Inv) (hr : s.rst = false) (p : Port) : (s.take p).Inv :=
  (h.setRequest hr p none).moved _ _ p

theorem State.Inv.assertReset {s : State} (h : s.Inv) : s.assertReset.Inv :=
  ⟨h.ring, h.memory, h.err, h.tuned, h.flags, h.levels, fun _ => ⟨rfl, rfl, rfl⟩, h.ports.2⟩

/-! ### What a command does to each part -/

/-- A push keeps the ring in range; until the window is warm it writes the first element not yet pushed
(41_sample_window_buffer.md R120, R122). -/
theorem State.ringOk.push {v : F32} {s t : State} (h : s.ringOk) (hlog : t.log2n = s.log2n)
    (hpush : s.PushedTo v t) : t.ringOk := by
  obtain ⟨hwr, hfill, hcold⟩ := h
  have hsize := State.size_of_log2n hlog
  refine ⟨?_, ?_, fun hlt => ?_⟩
  · rw [hpush.wr, hsize]
    exact Nat.mod_lt _ s.size_pos
  · rw [hpush.fill, hsize]
    exact Nat.min_le_right _ _
  · rw [hpush.fill, hsize] at hlt
    obtain ⟨hwf, hblank⟩ := hcold (by omega)
    refine ⟨by rw [hpush.wr, hpush.fill, Nat.mod_eq_of_lt (by omega)]; omega, fun i hi => ?_⟩
    rw [hpush.fill] at hi
    rw [State.memRead, State.memory, hpush.win, Memory.read_write_other _ (by omega)]
    exact hblank i (by omega)

theorem exec_ringOk {i : Instr} {s t : State} (h : s.ringOk) (ht : exec i s = .next t) : t.ringOk := by
  have hlog := (exec_served ht).log2n
  obtain ⟨-, hsame⟩ | ⟨v, -, hpush⟩ := exec_pushed (p := s.port) h.1 ht
  · exact h.of_same hlog hsame
  · exact h.push hlog hpush

/-- The writers of the element memories (20_memory.md R60): a command keeps a memory, pushes into it below `N`,
or writes all its `N` elements at once. -/
theorem exec_memory {i : Instr} {s t : State} (h : exec i s = .next t) (sp : Space) :
    t.memory sp = s.memory sp
      ∨ (∃ v, s.wr < s.size ∧ t.memory sp = (s.memory sp).write s.wr v)
      ∨ ∃ f, t.memory sp = Memory.fill s.size f := by
  cases i
  all_goals
    unfold exec at h
    obtain ⟨code, rfl⟩ | ⟨-, a, -, hb⟩ := accept_eq_next h
    · exact .inl (State.reject_memory ..)
  case tick | push =>
    obtain ⟨u, hu, rfl⟩ := mapNext_eq_next hb
    obtain ⟨hwr, rfl⟩ := State.pushSample_eq_next hu
    cases sp
    case win => exact .inr (.inl ⟨_, hwr, rfl⟩)
    all_goals exact .inl rfl
  case snap =>
    cases hb
    cases sp
    case snap => exact .inr (.inr ⟨_, rfl⟩)
    all_goals exact .inl rfl
  case fft =>
    cases hb
    cases sp
    case xre | xim => exact .inr (.inr ⟨_, rfl⟩)
    all_goals exact .inl rfl
  case mag =>
    cases hb
    cases sp
    case freq => exact .inr (.inr ⟨_, rfl⟩)
    all_goals exact .inl rfl
  all_goals
    cases hb
    exact .inl (by cases sp <;> rfl)

theorem exec_memoryOk {i : Instr} {s t : State} (h : s.memoryOk) (ht : exec i s = .next t) : t.memoryOk := by
  intro sp
  obtain ⟨hwf, hwithin⟩ := h sp
  rw [State.size_of_log2n (exec_served ht).log2n]
  obtain hm | ⟨v, hwr, hm⟩ | ⟨f, hm⟩ := exec_memory ht sp <;> rw [hm]
  · exact ⟨hwf, hwithin⟩
  · exact ⟨Memory.write_wf hwf _ v, Memory.write_within hwithin hwr v⟩
  · exact ⟨Memory.fill_wf _ f, Memory.fill_within _ f⟩

theorem exec_tuned {i : Instr} {s t : State} (h : s.tuned) (ht : exec i s = .next t) : t.tuned := by
  obtain ⟨hbase, hsemi, htarget⟩ | hretuned := exec_tuning ht
  · rw [State.tuned, htarget, hbase, hsemi]
    exact h
  · exact hretuned.tuned

/-- Only `SNAP`, `FFT` and `MAG` write the state of the analysis. -/
theorem exec_sameAnalysis {i : Instr} {s t : State} (h : exec i s = .next t)
    (hi : i ∉ [Instr.snap, .fft, .mag]) : sameAnalysis s t := by
  cases i
  case snap | fft | mag => exact absurd (by simp) hi
  all_goals
    unfold exec at h
    obtain ⟨code, rfl⟩ | ⟨-, a, -, hb⟩ := accept_eq_next h
    · exact ⟨rfl, rfl, rfl, rfl, rfl, rfl, rfl⟩
  case tick | push =>
    obtain ⟨u, hu, rfl⟩ := mapNext_eq_next hb
    obtain ⟨-, rfl⟩ := State.pushSample_eq_next hu
    exact ⟨rfl, rfl, rfl, rfl, rfl, rfl, rfl⟩
  all_goals
    cases hb
    exact ⟨rfl, rfl, rfl, rfl, rfl, rfl, rfl⟩

/-! ### The meaning of the validity flags -/

/-- After `SNAP` the snapshot is valid and nothing else is (41_sample_window_buffer.md R123). -/
theorem exec_snap_flagsOk {s t : State} (hp : s.port = .A) (ht : exec .snap s = .next t) : t.flagsOk := by
  rw [exec_snap_of_port hp] at ht
  cases ht
  exact ⟨nofun, nofun, nofun⟩

/-- After `FFT` the spectrum is the transform of the snapshot, which it keeps (42_fft_butterfly.md R147). -/
theorem exec_fft_flagsOk {s t : State} (hp : s.port = .A) (h : s.flagsOk) (ht : exec .fft s = .next t) :
    t.flagsOk := by
  obtain ⟨hf, hsnapv⟩ := exec_fft_frame ht
  have hsnap : t.memRead .snap = s.memRead .snap := hf.memRead (by simp)
  have hlog := (exec_served ht).log2n
  have hmagv : t.magv = false := by
    rw [exec_fft_of_port hp] at ht
    cases ht
    rfl
  rw [State.flagsOk, hsnap, hsnapv, hmagv, State.size_of_log2n hlog, hlog]
  exact ⟨h.1, fun _ => (exec_fft_spectrum hp ht).2, nofun⟩

/-- After `MAG` the Frequency Array holds the moduli of the spectrum, which it keeps, and is valid where the
spectrum is (43_magnitude_extractor.md R161). -/
theorem exec_mag_flagsOk {s t : State} (hp : s.port = .A) (h : s.flagsOk) (ht : exec .mag s = .next t) :
    t.flagsOk := by
  obtain ⟨hf, hsnapv, hspecv⟩ := exec_mag_frame ht
  obtain ⟨hmagv, hfreq⟩ := exec_mag_element hp ht
  have hsnap : t.memRead .snap = s.memRead .snap := hf.memRead (by simp)
  have hspectrum : t.spectrum = s.spectrum := by
    funext k
    rw [State.spectrum, hf.memRead (by simp), hf.memRead (by simp), State.spectrum]
  have hlog := (exec_served ht).log2n
  obtain ⟨hblank, hspec, -⟩ := h
  rw [State.flagsOk, hsnap, hspectrum, hsnapv, hspecv, hmagv, State.size_of_log2n hlog, hlog]
  exact ⟨hblank, hspec, fun hs k hk => by rw [hfreq k hk, hspec hs k hk]⟩

theorem exec_flagsOk {i : Instr} {s t : State} (h : s.flagsOk) (ht : exec i s = .next t) : t.flagsOk := by
  have hlog := (exec_served ht).log2n
  by_cases hp : s.port = .A
  · by_cases hi : i ∈ [Instr.snap, .fft, .mag]
    · simp only [List.mem_cons, List.not_mem_nil, or_false] at hi
      obtain rfl | rfl | rfl := hi
      · exact exec_snap_flagsOk hp ht
      · exact exec_fft_flagsOk hp h ht
      · exact exec_mag_flagsOk hp h ht
    · exact h.of_same hlog (exec_sameAnalysis ht hi)
  · exact h.of_same hlog ((exec_keepsOthers ht).analysis hp)

/-! ### `ERR` and its mark -/

/-- The word that a rejection records has fields that `ERR` can hold (10_state.md R35, 60_exceptions.md R201). -/
theorem errWord_ok (op : BitVec 8) (p : Port) (code : ErrCode) :
    errCode (errWord op p code) ≤ 5 ∧ errPort (errWord op p code) ≤ 2
      ∧ errCode (errWord op p code) ≠ 0 := by
  obtain ⟨hcode, hport, -⟩ := errWord_fields op p code
  rw [hcode, hport]
  cases p <;> cases code <;> decide

theorem State.errOk.reject {s : State} (h : s.errOk) (op : BitVec 8) (code : ErrCode) :
    (s.reject op code).errOk := by
  by_cases hc : errCode s.err = 0
  · obtain ⟨hcode, hport, hne⟩ := errWord_ok op s.port code
    obtain ⟨-, -, -, hres, hres'⟩ := errWord_fields op s.port code
    have herr : (s.reject op code).err = errWord op s.port code := if_pos hc
    rw [State.errOk, herr]
    exact ⟨hcode, hport, hres, hres', fun h0 => absurd h0 hne⟩
  · have herr : (s.reject op code).err = s.err := if_neg hc
    rw [State.errOk, herr]
    exact h

theorem runRequest_errOk {r : Request} {s t : State} (h : s.errOk) (ht : runRequest r s = .next t) :
    t.errOk := by
  obtain herr | ⟨code, rfl⟩ | ⟨-, herr⟩ := runRequest_err ht
  · rw [State.errOk, herr]
    exact h
  · exact h.reject _ code
  · exact State.errOk_of_zero herr

/-- A request never clears the mark (60_exceptions.md R221). -/
theorem runRequest_everRejected {r : Request} {s t : State} (ht : runRequest r s = .next t)
    (h : s.everRejected = true) : t.everRejected = true := by
  obtain ⟨code, rfl⟩ | ⟨i, v, -, hv⟩ := runRequest_rejects_or_answers ht
  · rfl
  · exact hv.mark.trans h

theorem runRequest_portsOk {r : Request} {s t : State} (h : s.portsOk) (hr : s.rst = false)
    (ht : runRequest r s = .next t) : t.portsOk := by
  have hrst : t.rst = false := (runRequest_served ht).interface.1.trans hr
  refine ⟨fun hr' => absurd (hrst.symm.trans hr') Bool.false_ne_true, fun hne => ?_⟩
  obtain herr | ⟨code, rfl⟩ | ⟨-, herr⟩ := runRequest_err ht
  · rw [herr] at hne
    exact runRequest_everRejected ht (h.2 hne)
  · rfl
  · rw [herr] at hne
    exact absurd rfl hne

/-! ### Requests and steps -/

theorem State.levelsOk.runRequest {r : Request} {s t : State} (h : s.levelsOk)
    (ht : runRequest r s = .next t) : t.levelsOk := by
  have ⟨hamp, _, hfin, hpos⟩ := h
  exact h.of_same (runRequest_keepsOthers ht).parameters (runRequest_amplitude_nonneg hamp hfin hpos ht)

/-- Every request keeps the invariant. -/
theorem runRequest_inv {r : Request} {s t : State} (h : s.Inv) (hr : s.rst = false)
    (ht : runRequest r s = .next t) : t.Inv := by
  have herr := runRequest_errOk h.err ht
  have hlevels := h.levels.runRequest ht
  have hports := runRequest_portsOk h.ports hr ht
  obtain ⟨i, -, hi⟩ | ⟨-, rfl⟩ := runRequest_eq_next ht
  · exact ⟨exec_ringOk h.ring hi, exec_memoryOk h.memory hi, herr, exec_tuned h.tuned hi,
      exec_flagsOk h.flags hi, hlevels, hports⟩
  · exact ⟨h.ring, fun sp => by rw [State.reject_memory]; exact h.memory sp, herr, h.tuned, h.flags, hlevels,
      hports⟩

end Sys2Proof.Machine

/-- Settles O46: each part of the invariant by the groups of state it speaks of, and by what a command does to
those. -/
theorem everyStepKeepsTheInvariant : Obligations.EveryStepKeepsTheInvariant := by
  intro s t h ht
  obtain ⟨sched, n, rfl | ⟨p, r, hr, -, hrun⟩ | ⟨p, r, hr, -, rfl⟩ | rfl | ⟨c, -, hc, rfl⟩⟩ := step_eq_next ht
  all_goals have hu := h.moved sched n s.port
  · exact hu
  · exact runRequest_inv (hu.take hr p) ((State.take_rst ..).trans hr) hrun
  · exact hu.setRequest hr p (some r)
  · exact hu.assertReset
  · exact (State.resetWith_inv hc).moved sched n _

end

/-! ## The control commands, one by one -/

section
open Sys2Proof Sys2Proof.Machine

namespace Sys2Proof.Machine

/-! ### The semitone in exact arithmetic -/

/-- A raise multiplies by the semitone (44_control_surface.md R173). -/
theorem Num.real_transposeUp (x : ℝ) : Num.real.transposeUp x = x * Num.real.semi := rfl

theorem Num.real_transposeDown (x : ℝ) : Num.real.transposeDown x = x / Num.real.semi := rfl

theorem Num.real_pow2 (n : Fin 12) : Num.real.pow2 n = (2 : ℝ) ^ ((n.val : ℝ) / 12) := rfl

theorem Num.real_retarget (x : ℝ) (n : Fin 12) :
    Num.real.retarget x n = x * (2 : ℝ) ^ ((n.val : ℝ) / 12) := rfl

theorem Num.real_semi : Num.real.semi = (2 : ℝ) ^ ((1 : ℝ) / 12) := by
  rw [Num.semi, Num.real_pow2]
  norm_num

theorem Num.real_semi_pos : 0 < Num.real.semi := by
  rw [Num.real_semi]
  positivity

/-- Twelve semitones are an octave (44_control_surface.md R180). -/
theorem Num.real_semi_pow : Num.real.semi ^ 12 = 2 := by
  rw [Num.real_semi, ← Real.rpow_mul_natCast (by norm_num)]
  norm_num

theorem Num.real_transposeUp_iterate (n : Nat) : Num.real.transposeUp^[n] = fun x => x * Num.real.semi ^ n :=
  mul_right_iterate _ n

theorem Num.real_octave (x : ℝ) : Num.real.transposeUp^[12] x = 2 * x := by
  rw [Num.real_transposeUp_iterate, Num.real_semi_pow, mul_comm]

/-- A lowering undoes a raise. -/
theorem Num.real_transposeDown_transposeUp (x : ℝ) : Num.real.transposeDown (Num.real.transposeUp x) = x := by
  rw [Num.real_transposeDown, Num.real_transposeUp, mul_div_cancel_right₀ _ Num.real_semi_pos.ne']

/-- The semitone lies between two numbers whose twelfth powers lie around 2. -/
theorem Num.real_semi_bounds : 1.05945 < Num.real.semi ∧ Num.real.semi < 1.05947 := by
  constructor
  · refine lt_of_pow_lt_pow_left₀ 12 Num.real_semi_pos.le ?_
    rw [Num.real_semi_pow]
    norm_num
  · refine lt_of_pow_lt_pow_left₀ 12 (by norm_num) ?_
    rw [Num.real_semi_pow]
    norm_num

theorem Num.real_stepDown (a step : ℝ) :
    Num.real.stepDown a step = if a - step < 0 then 0 else a - step := by
  simp [Num.stepDown]

end Sys2Proof.Machine

namespace Sys2Proof

/-! ### Raises in `NUM_F32` grow until they overflow -/

/-- The magnitudes at neighbouring bit patterns of normal data: the step is at most the `2^23`-th part. -/
theorem F32.magOfBits_succ {bits : Nat} (h : 2 ^ 23 ≤ bits) :
    F32.magOfBits bits < F32.magOfBits (bits + 1)
      ∧ 2 ^ 23 * F32.magOfBits (bits + 1) ≤ (2 ^ 23 + 1) * F32.magOfBits bits := by
  obtain ⟨e, q, hq, hlt, rfl⟩ : ∃ e q, 2 ^ 23 ≤ q ∧ q < 2 ^ 24 ∧ bits = e * 2 ^ 23 + q :=
    ⟨bits / 2 ^ 23 - 1, bits % 2 ^ 23 + 2 ^ 23, by omega, by omega, by omega⟩
  have hpow := Nat.two_pow_pos e
  have hscaled := Nat.mul_le_mul_right (2 ^ e) hq
  rw [Nat.add_assoc, F32.magOfBits_spaced (by omega) (.inr hq),
    F32.magOfBits_spaced (by omega) (.inr (by omega))]
  constructor <;> linarith

theorem F32.mag_eq_magOfBits (x : F32) : x.mag = F32.magOfBits (x.toNat % 2 ^ 31) := by
  rw [← F32.pack_mag (neg := x.sign) (Nat.mod_lt _ (by norm_num)), F32.pack_self]

theorem F32.toInt_of_pos {x : F32} (h : 0 < x.toInt) : x.toInt = x.mag := by
  rw [F32.toInt, F32.sign_of_pos h]
  rfl

/-- A datum of `2^23` units or more is normal. -/
theorem F32.normal_of_le_toInt {x : F32} (h : 2 ^ 23 ≤ x.toInt) : 2 ^ 23 ≤ x.toNat % 2 ^ 31 := by
  by_contra hn
  have hmag : x.mag = x.toNat % 2 ^ 31 := by
    rw [F32.mag_eq_magOfBits, F32.magOfBits, if_pos (by omega)]
    omega
  have := F32.toInt_of_pos (x := x) (by omega)
  omega

end Sys2Proof

namespace Sys2Proof.Machine

theorem Num.f32_semi_toInt : F32.toInt 0x3F879C7D = 8887421 * 2 ^ 126 := by decide +kernel

/-- A raise of a normal datum that stays finite is a greater datum: already the next one lies below the exact
product, and no datum is nearer to it than the result. -/
theorem Num.f32_lt_transposeUp {x : F32} (hfin : x.isFinite = true) (hx : 2 ^ 23 ≤ x.toInt)
    (hup : (Num.f32.transposeUp x).isFinite = true) : x.toInt < (Num.f32.transposeUp x).toInt := by
  have hbits : x.toNat % 2 ^ 31 + 1 < 2 ^ 31 := by
    have := x.bits_eq
    have := x.frac_lt
    have := F32.expField_lt hfin
    omega
  let above := F32.pack false (x.toNat % 2 ^ 31 + 1)
  obtain ⟨hgt, hstep⟩ : x.mag < above.mag ∧ 2 ^ 23 * above.mag ≤ (2 ^ 23 + 1) * x.mag := by
    rw [F32.mag_eq_magOfBits, F32.pack_mag hbits]
    exact F32.magOfBits_succ (F32.normal_of_le_toInt hx)
  have hmag : x.toInt = x.mag := F32.toInt_of_pos (by omega)
  have habove : above.toInt = above.mag := by
    rw [F32.toInt, F32.pack_sign hbits]
    rfl
  have hnear : |(Num.f32.transposeUp x).toInt * 2 ^ 149 - x.toInt * (8887421 * 2 ^ 126)|
      ≤ |above.toInt * 2 ^ 149 - x.toInt * (8887421 * 2 ^ 126)| := by
    rw [← Num.f32_semi_toInt]
    exact F32.mul_nearest hfin (by decide) hup above
  have hbelow : above.toInt * 2 ^ 149 ≤ x.toInt * (8887421 * 2 ^ 126) := by omega
  rw [abs_of_nonpos (sub_nonpos.2 hbelow)] at hnear
  have := (neg_le_abs _).trans hnear
  omega

theorem Num.f32_transposeUp_finite_or_inf {x : F32} (hfin : x.isFinite = true) (hx : 0 < x.toInt) :
    (Num.f32.transposeUp x).isFinite = true ∨ Num.f32.transposeUp x = F32.inf := by
  obtain ⟨bits, hbits, he⟩ := Num.f32_transposeUp_eq_pack (F32.not_inf_nan hfin).2
  rw [he, F32.sign_of_pos hx]
  obtain rfl | hlt := hbits.eq_or_lt
  · exact .inr rfl
  · left
    rw [F32.isFinite, F32.pack_expField (by omega), bne_iff_ne]
    omega

/-- Raises of a normal positive base overflow: while they stay finite each gives a greater datum, and there are
finitely many data (44_control_surface.md R173). -/
theorem Num.f32_transposeUp_overflows {x : F32} (hfin : x.isFinite = true) (hx : 2 ^ 23 ≤ x.toInt) :
    ∃ n, Num.f32.transposeUp^[n] x = F32.inf := by
  by_contra hnever
  rw [not_exists] at hnever
  have hraise : ∀ n, (Num.f32.transposeUp^[n] x).isFinite = true →
      2 ^ 23 ≤ (Num.f32.transposeUp^[n] x).toInt → (Num.f32.transposeUp^[n + 1] x).isFinite = true
        ∧ (Num.f32.transposeUp^[n] x).toInt < (Num.f32.transposeUp^[n + 1] x).toInt := by
    intro n hn hle
    have hnext := hnever (n + 1)
    rw [Function.iterate_succ_apply'] at hnext ⊢
    have hup := (Num.f32_transposeUp_finite_or_inf hn (by omega)).resolve_right hnext
    exact ⟨hup, Num.f32_lt_transposeUp hn hle hup⟩
  have hstays : ∀ n, (Num.f32.transposeUp^[n] x).isFinite = true
      ∧ 2 ^ 23 ≤ (Num.f32.transposeUp^[n] x).toInt := by
    intro n
    induction n with
    | zero => exact ⟨hfin, hx⟩
    | succ n ih =>
      obtain ⟨hup, hlt⟩ := hraise n ih.1 ih.2
      exact ⟨hup, ih.2.trans hlt.le⟩
  have hmono : StrictMono fun n => (Num.f32.transposeUp^[n] x).toInt :=
    strictMono_nat_of_lt_succ fun n => (hraise n (hstays n).1 (hstays n).2).2
  exact not_injective_infinite_finite (fun n => Num.f32.transposeUp^[n] x)
    (hmono.injective.of_comp (f := F32.toInt))

/-! ### The control commands on port `C` -/

/-- A command that only port `C` may issue is rejected elsewhere. -/
theorem onlyOnPort_C {i : Instr} (h : ∀ q, mayIssue i q = (q == .C)) : onlyOnPort .C i :=
  onlyOnPort_of_mayIssue fun q hq => (h q).trans (beq_eq_false_iff_ne.2 hq)

section
variable {s : State} (hp : s.port = .C)
include hp

theorem exec_setbase_of_port {v : F32} (hv : v.isFinite = true) : exec (.setbase v) s =
    .next (State.respond 0 { s with
      baseFreq := v, targetFreq := F32.mul v (F32.pow2Table s.semitone) }) := by
  unfold exec execSetbase
  exact accept_accepted (by rw [hp]; rfl) (realOperand_ok hv)

/-- `SETBASE` of an infinity or a NaN is rejected (60_exceptions.md R207). -/
theorem exec_setbase_nonfinite {v : F32} (hv : v.isFinite = false) :
    exec (.setbase v) s = .next (s.reject 0x10 .nonfinite) := by
  have hbad : realOperand v = .error .nonfinite := if_neg (ne_true_of_eq_false hv)
  exact exec_of_failingCheck (by rw [hp]; exact congrArg raisedCode hbad)

theorem exec_trup_of_port : exec .trup s =
    .next (State.respond 0 { s with
      baseFreq := F32.mul s.baseFreq 0x3F879C7D
      targetFreq := F32.mul (F32.mul s.baseFreq 0x3F879C7D) (F32.pow2Table s.semitone) }) := by
  unfold exec execTrup
  exact accept_noOperand (by rw [hp]; rfl)

theorem exec_trdn_of_port : exec .trdn s =
    .next (State.respond 0 { s with
      baseFreq := F32.div s.baseFreq 0x3F879C7D
      targetFreq := F32.mul (F32.div s.baseFreq 0x3F879C7D) (F32.pow2Table s.semitone) }) := by
  unfold exec execTrdn
  exact accept_noOperand (by rw [hp]; rfl)

theorem exec_note_of_port {a : BitVec 16} (h : a.toNat < 12) : exec (.note a) s =
    .next (State.respond 0 { s with
      semitone := ⟨a.toNat, h⟩
      targetFreq := F32.mul s.baseFreq (F32.pow2Table ⟨a.toNat, h⟩) }) := by
  unfold exec execNote
  exact accept_accepted (by rw [hp]; rfl) (semitoneOperand_ok h)

/-- A semitone offset above 11 is rejected (60_exceptions.md R205). -/
theorem exec_note_beyond {a : BitVec 16} (h : 11 < a.toNat) :
    exec (.note a) s = .next (s.reject 0x13 .arg) :=
  exec_of_failingCheck (by rw [hp]; exact (raisedCode_semitoneOperand a).trans (if_pos h))

theorem exec_wave_of_port {a : BitVec 16} {w : Wave} (h : waveOperand a = .ok w) :
    exec (.wave a) s = .next (State.respond 0 { s with wave := w }) := by
  unfold exec execWave
  exact accept_accepted (by rw [hp]; rfl) h

/-- A waveform number above 3 is rejected (60_exceptions.md R205). -/
theorem exec_wave_beyond {a : BitVec 16} (h : 3 < a.toNat) :
    exec (.wave a) s = .next (s.reject 0x14 .arg) :=
  exec_of_failingCheck (by rw [hp]; exact (raisedCode_waveOperand a).trans (if_pos h))

theorem exec_ampup_of_port : exec .ampup s =
    .next (State.respond 0 { s with amplitude := F32.add s.amplitude s.ampStep }) := by
  unfold exec execAmpup
  exact accept_noOperand (by rw [hp]; rfl)

theorem exec_ampdn_of_port : exec .ampdn s =
    .next (State.respond 0 { s with
      amplitude :=
        if F32.lt (F32.sub s.amplitude s.ampStep) 0 = true then 0
        else F32.sub s.amplitude s.ampStep }) := by
  rw [← Num.f32_stepDown]
  unfold exec execAmpdn
  exact accept_noOperand (by rw [hp]; rfl)

theorem exec_clrerr_of_port : exec .clrerr s = .next (State.respond 0 { s with err := 0 }) := by
  unfold exec execClrerr
  exact accept_noOperand (by rw [hp]; rfl)

end

end Sys2Proof.Machine

/-- Settles O15: the admission of a finite operand, and the worked example in both numerics. -/
theorem setbaseSetsTheBaseAndRetunes : Obligations.SetbaseSetsTheBaseAndRetunes :=
  ⟨fun _ _ hp hv => exec_setbase_of_port hp hv, fun _ => onlyOnPort_C fun _ => rfl,
    bareWordsOnly_of_not_mem_argOpcodes (by decide), fun _ _ hp hv => exec_setbase_nonfinite hp hv,
    by decide +kernel, Num.real_retarget 220 7⟩

/-- Settles O16: one and twelve raises computed, and the overflow by the growth of every raise. -/
theorem trupRaisesTheBaseAndRetunes : Obligations.TrupRaisesTheBaseAndRetunes :=
  ⟨fun _ hp => exec_trup_of_port hp, onlyOnPort_C fun _ => rfl,
    bareWordsOnly_of_not_mem_argOpcodes (by decide), by decide +kernel, by decide +kernel,
    Num.f32_transposeUp_overflows (by decide) (by decide +kernel),
    by rw [Num.real_transposeUp, Num.real_semi], Num.real_octave⟩

/-- Settles O17: in `NUM_REAL` the division undoes the product; in `NUM_F32` the quotient has the sign of the
base. -/
theorem trdnLowersTheBaseAndRetunes : Obligations.TrdnLowersTheBaseAndRetunes := by
  refine ⟨fun _ hp => exec_trdn_of_port hp, onlyOnPort_C fun _ => rfl,
    bareWordsOnly_of_not_mem_argOpcodes (by decide), by decide +kernel,
    by rw [Num.real_transposeDown, Num.real_semi], Num.real_transposeDown_transposeUp, fun x hx => ?_⟩
  obtain ⟨hnan, hpos⟩ := F32.zero_lt_iff.1 hx
  obtain ⟨bits, hbits, he⟩ := Num.f32_transposeDown_eq_pack hnan
  rw [he, F32.sign_of_pos hpos]
  exact F32.zero_le_pack hbits

/-- Settles O18: the admission of an offset below 12, and the worked example in both numerics. -/
theorem noteSetsTheOffsetAndRetunes : Obligations.NoteSetsTheOffsetAndRetunes :=
  ⟨fun _ _ h hp => exec_note_of_port hp h, fun _ => onlyOnPort_C fun _ => rfl, argWordsOnly_of_opcode _,
    fun _ _ hp h => exec_note_beyond hp h, by decide +kernel, Num.real_retarget 440 7⟩

/-- Settles O19: the four numbers of a waveform, and the rejection of every other. -/
theorem waveSelectsTheWaveform : Obligations.WaveSelectsTheWaveform :=
  ⟨fun _ hp => ⟨exec_wave_of_port hp rfl, exec_wave_of_port hp rfl, exec_wave_of_port hp rfl,
      exec_wave_of_port hp rfl⟩,
    fun _ => onlyOnPort_C fun _ => rfl, argWordsOnly_of_opcode _, fun _ _ hp h => exec_wave_beyond hp h,
    by decide⟩

/-- Settles O20: the admission, and the worked example in both numerics. -/
theorem ampupAddsTheStep : Obligations.AmpupAddsTheStep :=
  ⟨fun _ hp => exec_ampup_of_port hp, onlyOnPort_C fun _ => rfl,
    bareWordsOnly_of_not_mem_argOpcodes (by decide), by decide +kernel,
    by norm_num [Num.stepUp]⟩

/-- Settles O22: the admission, and `ERR.CODE` of zero. -/
theorem clrerrClearsErr : Obligations.ClrerrClearsErr := by
  refine ⟨fun _ hp => exec_clrerr_of_port hp, onlyOnPort_C fun _ => rfl,
    bareWordsOnly_of_not_mem_argOpcodes (by decide), fun s t hp h => ?_⟩
  rw [exec_clrerr_of_port hp] at h
  cases h
  rfl

/-- Settles O38: the semitone between two bounds, and its twelfth power. -/
theorem twelveSemitonesAreAnOctave : Obligations.TwelveSemitonesAreAnOctave := by
  refine ⟨?_, by rw [Num.real_octave]; norm_num, Num.real_semi_pow, by decide +kernel, by decide +kernel⟩
  obtain ⟨hl, hu⟩ := Num.real_semi_bounds
  rw [Num.real_transposeUp, abs_lt]
  constructor <;> linarith

/-- Settles O21: the clamp by its equation, the worked examples computed, and the amplitude kept from below zero
by every command (`exec_amplitude`). -/
theorem ampdnSubtractsTheStepAndClamps : Obligations.AmpdnSubtractsTheStepAndClamps := by
  refine ⟨fun _ hp => exec_ampdn_of_port hp, onlyOnPort_C fun _ => rfl,
    bareWordsOnly_of_not_mem_argOpcodes (by decide), fun _ => F32.sub_self, fun x hfin hpos => ?_,
    by decide +kernel, by decide +kernel, by decide +kernel, by decide +kernel, by decide +kernel,
    fun _ _ => Num.f32_stepDown_nonneg, by norm_num [Num.real_stepDown], by norm_num [Num.real_stepDown],
    by norm_num [Num.real_stepDown], by norm_num [Num.real_stepDown], by norm_num [Num.real_stepDown],
    fun c hc => (State.resetWith_inv hc).levels.1, fun _ _ _ => runRequest_amplitude_nonneg⟩
  obtain ⟨hnan, hint⟩ := F32.zero_lt_iff.1 hpos
  have hbelow : F32.lt (F32.sub 0 x) 0 = true := by
    rw [F32.zero_sub hfin hint]
    exact F32.lt_zero_iff.2 ⟨(F32.neg_isNaN x).trans hnan, by rw [F32.neg_toInt]; omega⟩
  rw [Num.f32_stepDown, if_pos hbelow]

/-! ### What the control commands leave unchanged -/

namespace Sys2Proof.Machine

/-- What every control command leaves of a state: the synthesis, the analysis with every element of every memory,
the parameters and the interface. -/
structure State.ControlFrame (s t : State) : Prop where
  synthesis : sameSynthesis s t
  analysis : sameAnalysis s t
  parameters : sameParameters s t
  interface : sameInterface s t
  elements : ∀ sp k, t.memRead sp k = s.memRead sp k

theorem State.reject_controlFrame (op : BitVec 8) (code : ErrCode) (s : State) :
    s.ControlFrame (s.reject op code) :=
  ⟨⟨rfl, rfl, rfl, rfl, rfl, rfl⟩, ⟨rfl, rfl, rfl, rfl, rfl, rfl, rfl⟩, ⟨rfl, rfl, rfl⟩,
    ⟨rfl, rfl, rfl, rfl, rfl, rfl, rfl⟩, fun _ _ => State.reject_memRead ..⟩

/-- A command that only port `C` may issue writes none of these there, and nothing but `ERR` elsewhere. -/
theorem exec_controlFrame {i : Instr} {s t : State} (hi : ∀ q, mayIssue i q = (q == .C))
    (h : exec i s = .next t) : s.ControlFrame t := by
  by_cases hp : s.port = .C
  · obtain ⟨hsyn, -, hana, hpar⟩ := exec_keepsOthers h
    have hsyn := hsyn (by rw [hp]; nofun)
    have hana := hana (by rw [hp]; nofun)
    exact ⟨hsyn, hana, hpar, (exec_served h).interface,
      fun sp k => congrArg (fun m : Memory => m.read k) (memory_of_same hsyn hana sp)⟩
  · rw [onlyOnPort_C hi s hp] at h
    cases h
    exact s.reject_controlFrame _ _

/-- The commands that set the base frequency keep the other control registers but the target frequency. -/
theorem exec_rebase_keeps {i : Instr} {s t : State} (hi : (∃ v, i = .setbase v) ∨ i = .trup ∨ i = .trdn)
    (h : exec i s = .next t) : t.wave = s.wave ∧ t.semitone = s.semitone ∧ t.amplitude = s.amplitude := by
  obtain ⟨v, rfl⟩ | rfl | rfl := hi
  all_goals
    unfold exec at h
    obtain ⟨code, rfl⟩ | ⟨-, a, -, hb⟩ := accept_eq_next h
    · exact ⟨rfl, rfl, rfl⟩
    · cases hb
      exact ⟨rfl, rfl, rfl⟩

theorem exec_note_keeps {a : BitVec 16} {s t : State} (h : exec (.note a) s = .next t) :
    t.wave = s.wave ∧ t.baseFreq = s.baseFreq ∧ t.amplitude = s.amplitude := by
  unfold exec at h
  obtain ⟨code, rfl⟩ | ⟨-, n, -, hb⟩ := accept_eq_next h
  · exact ⟨rfl, rfl, rfl⟩
  · cases hb
    exact ⟨rfl, rfl, rfl⟩

theorem exec_wave_keeps {a : BitVec 16} {s t : State} (h : exec (.wave a) s = .next t) :
    t.semitone = s.semitone ∧ t.baseFreq = s.baseFreq ∧ t.targetFreq = s.targetFreq
      ∧ t.amplitude = s.amplitude := by
  unfold exec at h
  obtain ⟨code, rfl⟩ | ⟨-, w, -, hb⟩ := accept_eq_next h
  · exact ⟨rfl, rfl, rfl, rfl⟩
  · cases hb
    exact ⟨rfl, rfl, rfl, rfl⟩

theorem exec_step_keeps {i : Instr} {s t : State} (hi : i = .ampup ∨ i = .ampdn) (h : exec i s = .next t) :
    t.wave = s.wave ∧ t.semitone = s.semitone ∧ t.baseFreq = s.baseFreq ∧ t.targetFreq = s.targetFreq := by
  obtain rfl | rfl := hi
  all_goals
    unfold exec at h
    obtain ⟨code, rfl⟩ | ⟨-, a, -, hb⟩ := accept_eq_next h
    · exact ⟨rfl, rfl, rfl, rfl⟩
    · cases hb
      exact ⟨rfl, rfl, rfl, rfl⟩

end Sys2Proof.Machine

/-- Settles O39: the frame that the control commands share, and the registers that each of them keeps. -/
theorem controlCommandsFrame : Obligations.ControlCommandsFrame := by
  intro s t i h
  refine ⟨fun hi => ?_, fun hi => ?_, fun hi => ?_, fun hi => ?_, fun hi => ?_⟩
  · have hc : (∀ q, mayIssue i q = (q == .C)) ∧ i ≠ .clrerr := by
      obtain ⟨v, rfl⟩ | rfl | rfl := hi <;> exact ⟨fun _ => rfl, nofun⟩
    obtain ⟨hsyn, hana, hpar, hint, helem⟩ := exec_controlFrame hc.1 h
    exact ⟨hsyn, hana, hpar, hint, exec_errKept hc.2 h, helem, exec_rebase_keeps hi h⟩
  · obtain ⟨a, rfl⟩ := hi
    obtain ⟨hsyn, hana, hpar, hint, helem⟩ := exec_controlFrame (fun _ => rfl) h
    exact ⟨hsyn, hana, hpar, hint, exec_errKept nofun h, helem, exec_note_keeps h⟩
  · obtain ⟨a, rfl⟩ := hi
    obtain ⟨hsyn, hana, hpar, hint, helem⟩ := exec_controlFrame (fun _ => rfl) h
    exact ⟨hsyn, hana, hpar, hint, exec_errKept nofun h, helem, exec_wave_keeps h⟩
  · have hc : (∀ q, mayIssue i q = (q == .C)) ∧ i ≠ .clrerr := by
      obtain rfl | rfl := hi <;> exact ⟨fun _ => rfl, nofun⟩
    obtain ⟨hsyn, hana, hpar, hint, helem⟩ := exec_controlFrame hc.1 h
    exact ⟨hsyn, hana, hpar, hint, exec_errKept hc.2 h, helem, exec_step_keeps hi h⟩
  · subst hi
    obtain ⟨hsyn, hana, hpar, hint, helem⟩ := exec_controlFrame (fun _ => rfl) h
    refine ⟨hsyn, hana, hpar, hint, ?_, helem⟩
    obtain ⟨code, rfl⟩ | ⟨-, rfl⟩ := exec_clrerr_eq_next h <;> exact ⟨rfl, rfl, rfl, rfl, rfl⟩

end

/-! ## Register access -/

section
open Sys2Proof Sys2Proof.Machine

namespace Sys2Proof.Machine

/-- `STATUS` as the sum of its flags' weights (10_state.md R32). -/
theorem statusWord_eq_sum (warm snapv specv magv triDir errv : Bool) :
    statusWord warm snapv specv magv triDir errv = BitVec.ofNat 32
      (warm.toNat + 2 * snapv.toNat + 4 * specv.toNat + 8 * magv.toNat + 16 * triDir.toNat
        + 32 * errv.toNat) := by
  revert warm snapv specv magv triDir errv
  decide

theorem State.warm_toNat (s : State) : s.warm.toNat = if s.fill = s.size then 1 else 0 := by
  by_cases h : s.fill = s.size <;> simp [State.warm, h]

theorem State.errv_toNat (s : State) : 32 * s.errv.toNat = if errCode s.err = 0 then 0 else 32 := by
  unfold State.errv
  split
  · rw [‹errCode s.err = 0›]
    rfl
  · rw [bne_iff_ne.2 ‹_›]
    rfl

theorem State.status_eq_sum (s : State) : s.status = BitVec.ofNat 32
    ((if s.fill = s.size then 1 else 0) + 2 * s.snapv.toNat + 4 * s.specv.toNat + 8 * s.magv.toNat
      + 16 * s.triDir.toNat + (if errCode s.err = 0 then 0 else 32)) := by
  rw [State.status, statusWord_eq_sum, State.warm_toNat, State.errv_toNat]

theorem regOperand_ok {a : BitVec 16} {r : Reg} (h : Reg.ofNumber a.toNat = some r) :
    regOperand a = .ok r := by
  rw [regOperand, h]

/-- `RDREG` of a register number, on any port, responds the register's payload (45_register_access.md R190). -/
theorem exec_rdreg_of_number {a : BitVec 16} {r : Reg} {s : State} {v : Word32}
    (h : Reg.ofNumber a.toNat = some r) (hv : s.payload r = v) :
    exec (.rdreg a) s = .next (s.respond v) := by
  unfold exec execRdreg
  rw [← hv]
  exact accept_accepted rfl (regOperand_ok h)

/-- `RDREG` of a number above 0x0D is rejected (60_exceptions.md R205). -/
theorem exec_rdreg_beyond {a : BitVec 16} (h : 0x0D < a.toNat) (s : State) :
    exec (.rdreg a) s = .next (s.reject 0x01 .arg) :=
  exec_of_failingCheck ((raisedCode_regOperand a).trans (if_pos h))

end Sys2Proof.Machine

/-- Settles O14: an admitted `RDREG` responds the payload; `CFG`, `STATUS` and `WAVE` are words made of
fields, the other payloads the fields themselves. -/
theorem rdregRespondsThePayload : Obligations.RdregRespondsThePayload := by
  refine ⟨fun s => ?_, fun a s h => exec_rdreg_beyond h s, argWordsOnly_of_opcode _, fun p => ?_⟩
  · refine ⟨?_, exec_rdreg_of_number rfl (cfgWordOf_f32 _), exec_rdreg_of_number rfl s.status_eq_sum, ?_,
      exec_rdreg_of_number rfl ?wave, ?_, ?_, ?_, ?_, ?_, ?_, ?_, ?_, ?_⟩
    case wave =>
      unfold State.payload
      cases s.wave <;> rfl
    all_goals exact exec_rdreg_of_number rfl rfl
  · exact ⟨exec_rdreg_of_number rfl rfl, exec_rdreg_of_number rfl ((State.status_eq_sum _).trans rfl),
      exec_rdreg_of_number rfl (State.resetWith_cfgWord legalCfg_default)⟩

namespace Sys2Proof.Machine

/-! ### What reading and repeating leave unchanged -/

/-- A read is rejected or writes its response alone (45_register_access.md R190, 41_sample_window_buffer.md
R125, 42_fft_butterfly.md R148, R149, 43_magnitude_extractor.md R163). -/
theorem exec_read_writes_responses {i : Instr} {s t : State}
    (hi : (∃ a, i = .rdreg a) ∨ (∃ a, i = .rdsnap a) ∨ (∃ a, i = .rdre a) ∨ (∃ a, i = .rdim a)
      ∨ ∃ a, i = .rdbin a) (h : exec i s = .next t) :
    t = { s with responses := t.responses } ∨ ∃ code, t = s.reject i.opcode code := by
  obtain ⟨a, rfl⟩ | ⟨a, rfl⟩ | ⟨a, rfl⟩ | ⟨a, rfl⟩ | ⟨a, rfl⟩ := hi
  all_goals
    unfold exec at h
    obtain hr | ⟨-, k, -, hb⟩ := accept_eq_next h
    · exact .inr hr
    · cases hb
      exact .inl rfl

/-- After a rejection `ERR` holds an error. -/
theorem State.reject_errCode_ne_zero (op : BitVec 8) (code : ErrCode) (s : State) :
    errCode (s.reject op code).err ≠ 0 := by
  rw [State.reject_err]
  split
  · obtain ⟨-, -, hne⟩ := errWord_ok op s.port code
    exact hne
  · assumption

/-- Where `ERR` holds an error, a rejection keeps it (60_exceptions.md R202). -/
theorem State.reject_of_errCode_ne_zero {s : State} (h : errCode s.err ≠ 0) (op : BitVec 8) (code : ErrCode) :
    s.reject op code = { s with
      responses := s.responses ++ [⟨s.port, false, code.num.setWidth 32⟩]
      everRejected := true } := by
  unfold State.reject
  rw [if_neg h]

/-- A command of one port repeated on another is rejected twice, and the second time writes its response
alone. -/
theorem onlyOnPort.repeated {p : Port} {i : Instr} {s t u : State} (hi : onlyOnPort p i) (hp : s.port ≠ p)
    (ht : exec i s = .next t) (hu : exec i t = .next u) : u = { t with responses := u.responses } := by
  cases (hi s hp).symm.trans ht
  cases (hi (s.reject i.opcode .port) hp).symm.trans hu
  rw [State.reject_of_errCode_ne_zero (s.reject_errCode_ne_zero _ _)]
  rfl

/-- An analysis command that is repeated on port `A` finds what it read as it was, and writes the same again. -/
theorem exec_analysis_repeated {i : Instr} {s t u : State} (hi : i = .snap ∨ i = .fft ∨ i = .mag)
    (hp : s.port = .A) (ht : exec i s = .next t) (hu : exec i t = .next u) :
    u = { t with responses := u.responses } := by
  obtain rfl | rfl | rfl := hi
  · cases (exec_snap_of_port hp).symm.trans ht
    cases (exec_snap_of_port (by exact hp)).symm.trans hu
    rfl
  · cases (exec_fft_of_port hp).symm.trans ht
    cases (exec_fft_of_port (by exact hp)).symm.trans hu
    rfl
  · cases (exec_mag_of_port hp).symm.trans ht
    cases (exec_mag_of_port (by exact hp)).symm.trans hu
    rfl

/-- `TICK` and `PUSH` of a finite value on port `S` move `WR` on by one (41_sample_window_buffer.md R120). -/
theorem exec_pushing_moves_wr {i : Instr} {s t : State}
    (hi : i = .tick ∨ ∃ v, i = .push v ∧ v.isFinite = true) (hp : s.port = .S) (h : exec i s = .next t) :
    s.wr < s.size ∧ t.wr = (s.wr + 1) % s.size := by
  obtain rfl | ⟨v, rfl, hv⟩ := hi
  · have hadmit : exec .tick s = tickWith Num.f32 s := accept_noOperand (by rw [hp]; rfl)
    obtain ⟨u, hu, rfl⟩ := mapNext_eq_next (hadmit.symm.trans h)
    obtain ⟨hwr, rfl⟩ := State.pushSample_eq_next hu
    exact ⟨hwr, rfl⟩
  · have hadmit : exec (.push v) s = mapNext (State.respond 0) (s.pushSample v) :=
      accept_accepted (i := .push v) (body := fun x t => mapNext (State.respond 0) (t.pushSample x))
        (by rw [hp]; rfl) (realOperand_ok hv)
    obtain ⟨u, hu, rfl⟩ := mapNext_eq_next (hadmit.symm.trans h)
    obtain ⟨hwr, rfl⟩ := State.pushSample_eq_next hu
    exact ⟨hwr, rfl⟩

/-- In a ring of more than one element the next index is another. -/
theorem succ_mod_ne {n k : Nat} (hk : k < n) (hn : 1 < n) : (k + 1) % n ≠ k := by
  obtain hlt | rfl : k + 1 < n ∨ k + 1 = n := by omega
  · rw [Nat.mod_eq_of_lt hlt]
    omega
  · rw [Nat.mod_self]
    omega

end Sys2Proof.Machine

/-- Settles O42: the reads, the repeated analysis commands on port `A` and elsewhere, and the pushes. -/
theorem readsHaveNoSideEffect : Obligations.ReadsHaveNoSideEffect := by
  refine ⟨fun s t i => exec_read_writes_responses, fun s t u i hi ht hu => ?_, fun s t i hi hp h => ?_⟩
  · by_cases hp : s.port = .A
    · exact exec_analysis_repeated hi hp ht hu
    · have honly : onlyOnPort .A i := onlyOnPort_of_mayIssue fun q hq => by
        obtain rfl | rfl | rfl := hi <;> exact beq_eq_false_iff_ne.2 hq
      exact honly.repeated hp ht hu
  · obtain ⟨hwr, ht⟩ := exec_pushing_moves_wr hi hp h
    exact ⟨ht, fun hn => ht ▸ succ_mod_ne hwr hn⟩

/-- Settles O54: no request writes a parameter (20_memory.md R60), and a step that releases no reset writes
beside a request only `rst`, the ports and what the model keeps beside the block. -/
theorem parametersChangeOnlyAtReset : Obligations.ParametersChangeOnlyAtReset := by
  intro s t h hn
  obtain ⟨sched, n, rfl | ⟨p, r, hrun⟩ | ⟨p, r, rfl⟩ | rfl⟩ := step_eq_next_of_no_release hn h
  · exact ⟨rfl, rfl, rfl⟩
  · obtain ⟨hrate, hstep, hlog⟩ := (runRequest_keepsOthers hrun).parameters
    exact ⟨hrate.trans (State.take_sampleRate ..), hstep.trans (State.take_ampStep ..),
      hlog.trans (State.take_log2n ..)⟩
  · exact ⟨State.setRequest_sampleRate .., State.setRequest_ampStep .., State.setRequest_log2n ..⟩
  · exact ⟨rfl, rfl, rfl⟩

end

/-! ## The rejection and the causes of 60_exceptions.md -/

section
open Sys2Proof Sys2Proof.Machine

namespace Sys2Proof

/-- A datum is not finite exactly where bits 30:23 are all ones (60_exceptions.md R207). -/
theorem F32.isFinite_eq_false_iff (v : F32) : v.isFinite = false ↔ v.extractLsb' 23 8 = 0xFF#8 := by
  rw [← Bool.not_eq_true, F32.isFinite_iff, not_not]

end Sys2Proof

namespace Sys2Proof.Machine

/-! ### No step stops the block -/

/-- With `WR < N` the service of a port stops nothing: an idle port does nothing, and neither does one under
reset. -/
theorem serve_completes (p : Port) {s : State} (h : s.wr < s.size) : ∃ t, serve p s = .next t := by
  unfold serve
  split
  · exact ⟨_, rfl⟩
  · split
    · exact runRequest_completes _ (by simpa [State.size] using h)
    · exact ⟨_, rfl⟩

theorem present_completes (p : Port) (r : Request) {again : State} (s : State) (h : again.wr < again.size) :
    ∃ t, present p r again s = .next t := by
  unfold present
  split
  · exact ⟨_, rfl⟩
  · split
    · exact ⟨_, rfl⟩
    · exact serve_completes p h

/-- A release of reset is refused for an illegal `CFG` only (00_scope.md R8). -/
theorem State.releaseReset_completes {c : Cfg} (s : State) (h : legalCfg c = true) :
    ∃ t, s.releaseReset c = .next t := by
  unfold State.releaseReset
  rw [if_pos h]
  split <;> exact ⟨_, rfl⟩

/-- With `WR < N` a step answers a next state, unless it is a release of reset that the model refuses
(60_exceptions.md R211). -/
theorem step_completes {s : State} (hwr : s.wr < s.size) (hl : s.nextLegal) : ∃ t, step s = .next t := by
  cases hs : s.schedule with
  | nil =>
    cases hg : s.granted with
    | none => exact ⟨s, step_idle hs hg⟩
    | some p =>
      rw [step_granted hs hg]
      exact serve_completes p hwr
  | cons e rest =>
    cases e with
    | issue p r =>
      rw [step_issue hs]
      exact present_completes p r _ hwr
    | serve p =>
      rw [step_serve hs]
      exact serve_completes p hwr
    | assertReset =>
      rw [step, advance, hs]
      exact ⟨_, rfl⟩
    | releaseReset c =>
      rw [step, advance, hs]
      exact State.releaseReset_completes _ (hl c rest hs)

end Sys2Proof.Machine

/-- Settles O48: with `WR` in the ring a step completes, and every step keeps the invariant (O46). -/
theorem theBlockNeverStops : Obligations.TheBlockNeverStops := by
  intro s hinv hl
  obtain ⟨hwr, -⟩ := hinv.ring
  obtain ⟨t, ht⟩ := step_completes hwr hl
  exact ⟨t, ht, everyStepKeepsTheInvariant s t hinv ht⟩

namespace Sys2Proof.Machine

/-! ### The record of a rejection -/

/-- `ERR.CODE` is zero where bits 3:0 are (10_state.md R35). -/
theorem errCode_eq_zero_iff (err : Word32) : errCode err = 0 ↔ err &&& 0x0000000F = 0 := by
  have hlow : (err &&& 0x0000000F).toNat = err.toNat % 2 ^ 4 := Nat.and_two_pow_sub_one_eq_mod err.toNat 4
  rw [← BitVec.toNat_inj, ← BitVec.toNat_inj, hlow]
  exact Iff.rfl

/-- The recorded word holds the code from bit 0, the port from bit 4, the opcode bits from bit 8
(60_exceptions.md R201). -/
theorem errWord_eq_shifts (op : BitVec 8) (p : Port) (code : ErrCode) : errWord op p code =
    (op.setWidth 32 <<< 8) ||| (p.num.setWidth 32 <<< 4) ||| code.num.setWidth 32 := by
  refine BitVec.eq_of_getLsbD_eq fun k hk => ?_
  simp only [errWord, BitVec.getLsbD_append, BitVec.getLsbD_or, BitVec.getLsbD_shiftLeft,
    BitVec.getLsbD_setWidth]
  grind

theorem State.reject_err_of_none {s : State} (h : errCode s.err = 0) (op : BitVec 8) (code : ErrCode) :
    (s.reject op code).err = errWord op s.port code := if_pos h

theorem State.reject_err_of_some {s : State} (h : errCode s.err ≠ 0) (op : BitVec 8) (code : ErrCode) :
    (s.reject op code).err = s.err := if_neg h

/-- The payload of a rejection tells its code (60_exceptions.md R200). -/
theorem ErrCode.payload_injective {code code' : ErrCode}
    (h : code.num.setWidth 32 = code'.num.setWidth 32) : code = code' := by
  revert h
  cases code <;> cases code' <;> decide

theorem State.reject_code_injective {op op' : BitVec 8} {code code' : ErrCode} {s : State}
    (h : s.reject op code = s.reject op' code') : code = code' :=
  ErrCode.payload_injective (by simpa using congrArg State.responses h)

/-- A command that is rejected with a code fails the check of that code first: the converse of
`exec_of_failingCheck`. -/
theorem failingCheck_of_exec_rejected {i : Instr} {s : State} {op : BitVec 8} {code : ErrCode}
    (h : exec i s = .next (s.reject op code)) : failingCheck i s.port s.size = some code := by
  cases hf : failingCheck i s.port s.size with
  | none =>
    obtain ⟨v, hv⟩ := exec_answers hf h
    simpa using hv.response
  | some code' =>
    rw [exec_of_failingCheck hf] at h
    rw [State.reject_code_injective (Host.Outcome.next.inj h)]

/-- While `ERR` holds an error, a command keeps it, unless it is a `CLRERR` on port `C`, which clears it
(60_exceptions.md R202). -/
theorem exec_err_of_some {i : Instr} {s t : State} (h : exec i s = .next t) (he : errCode s.err ≠ 0) :
    t.err = s.err ∨ (i = .clrerr ∧ s.port = .C ∧ t.err = 0) := by
  by_cases hi : i = .clrerr
  · subst hi
    obtain ⟨code, rfl⟩ | ⟨hp, rfl⟩ := exec_clrerr_eq_next h
    · exact .inl (State.reject_err_of_some he ..)
    · exact .inr ⟨rfl, hp, rfl⟩
  · obtain hkept | ⟨hnone, -⟩ := exec_errKept hi h
    · exact .inl hkept
    · exact absurd hnone he

theorem runRequest_err_of_some {r : Request} {s t : State} (h : runRequest r s = .next t)
    (he : errCode s.err ≠ 0) :
    t.err = s.err ∨ (decode r.cw r.data = .ok .clrerr ∧ s.port = .C ∧ t.err = 0) := by
  obtain ⟨i, hd, hi⟩ | ⟨-, rfl⟩ := runRequest_eq_next h
  · exact (exec_err_of_some hi he).imp_right fun ⟨hclr, hp, ht⟩ => ⟨hclr ▸ hd, hp, ht⟩
  · exact .inl (State.reject_err_of_some he ..)

theorem State.errv_iff (s : State) : s.errv = true ↔ errCode s.err ≠ 0 := bne_iff_ne

/-! ### The causes -/

/-- A request decodes to no command exactly where its word fails the encoding check (60_exceptions.md R203). -/
theorem decode_eq_error_iff (cw data : Word32) : (∃ e, decode cw data = .error e) ↔ illegalWord cw := by
  refine ⟨fun ⟨_, he⟩ => illegalWord_of_decode_error he, fun h => ?_⟩
  cases hd : decode cw data with
  | ok i => exact absurd h (not_illegalWord_of_decode_ok hd)
  | error e => exact ⟨e, rfl⟩

/-- A command on a port that the opcode map does not list for it is rejected, whatever its argument and
operand (60_exceptions.md R204). -/
theorem exec_of_wrongPort {i : Instr} {s : State} (h : ¬ rightPort i.opcode.toNat s.port) :
    exec i s = .next (s.reject i.opcode .port) :=
  exec_of_failingCheck (if_neg (mt (rightPort_iff_mayIssue i s.port).2 h))

/-- `RDREG` may be issued on every port (60_exceptions.md R204). -/
theorem exec_rdreg_not_port (a : BitVec 16) (s : State) :
    exec (.rdreg a) s ≠ .next (s.reject 0x01 .port) := fun h => by
  have hcheck : raisedCode (regOperand a) = some .port := failingCheck_of_exec_rejected h
  rw [raisedCode_regOperand] at hcheck
  split at hcheck <;> cases hcheck

end Sys2Proof.Machine

/-- Settles O3: a word that decodes has the fields of its command, one that does not fails the encoding check;
the recorded word holds the opcode bits. -/
theorem illegalRequestsAreRejected : Obligations.IllegalRequestsAreRejected := by
  refine ⟨decode_eq_error_iff, fun cw data s h => runRequest_of_illegalWord (r := ⟨cw, data⟩) h s,
    fun op s h => ?_, by decide, by decide, by decide, by decide, rfl, rfl, rfl, rfl, rfl⟩
  obtain ⟨-, -, hopc, -⟩ := errWord_fields op s.port .illegal
  rw [State.reject_err_of_none h, hopc]

/-- Settles O8: what each command does to a recorded error; in the example, `RDBIN` fails the index check,
`NOTE` the port check, and `CLRERR` clears the error of the first. -/
theorem firstErrorIsKept : Obligations.FirstErrorIsKept := by
  refine ⟨fun _ _ _ => runRequest_err_of_some, fun op code _ h => State.reject_err_of_none h op code,
    fun _ hp => exec_clrerr_of_port hp, State.errv_iff, ?_⟩
  exact ⟨_, _, _, exec_index_beyond (k := 200) rfl rfl (by decide), rfl, rfl, exec_of_wrongPort (by decide), rfl, rfl,
    exec_clrerr_of_port rfl, rfl⟩

/-- Settles O9: the port check comes before the checks of argument and operand, and lists `RDREG` on every
port. -/
theorem wrongPortIsRejected : Obligations.WrongPortIsRejected :=
  ⟨fun _ _ => exec_of_wrongPort, exec_rdreg_not_port,
    fun s hp => exec_of_wrongPort (i := .note 99) (by rw [hp]; decide), rfl, rfl⟩

/-- Settles O7: the fields of the rejection by its definition, the recorded word by its shifts. -/
theorem rejectionChangesOnlyErr : Obligations.RejectionChangesOnlyErr := by
  intro op code s
  refine ⟨?_, rfl, ⟨rfl, rfl, rfl, rfl, rfl, rfl⟩, ⟨rfl, rfl, rfl, rfl, rfl⟩,
    ⟨rfl, rfl, rfl, rfl, rfl, rfl, rfl⟩, ⟨rfl, rfl, rfl⟩, ⟨rfl, rfl, rfl, rfl, rfl, rfl, rfl⟩,
    rfl, rfl, rfl, rfl, rfl, rfl, rfl, rfl⟩
  rw [State.reject_err, errWord_eq_shifts]
  simp only [errCode_eq_zero_iff]

/-- Settles O10: each argument fails its range check. -/
theorem argumentOutOfRangeIsRejected : Obligations.ArgumentOutOfRangeIsRejected :=
  ⟨fun _ s h => exec_rdreg_beyond h s, fun _ _ hp h => exec_note_beyond hp h,
    fun _ _ hp h => exec_wave_beyond hp h, rfl, rfl⟩

/-- Settles O11: each index fails the check against the size, and one below it reads its element. -/
theorem indexOutOfRangeIsRejected : Obligations.IndexOutOfRangeIsRejected := by
  obtain ⟨hreads, hbeyond, -⟩ := elementReadsRespondTheElement
  refine ⟨hbeyond, fun s h => by rw [State.size, h]; rfl, fun s h => by rw [State.size, h]; rfl, rfl,
    fun s hp h => ?_⟩
  obtain ⟨-, hre, -⟩ := hreads 7 s hp (by rw [State.size, h]; decide)
  exact hre

/-- Settles O12: an operand whose bits say it is not finite fails its check; the examples are finite. -/
theorem nonfiniteOperandIsRejected : Obligations.NonfiniteOperandIsRejected := by
  refine ⟨F32.isFinite_eq_false_iff, fun v s hp hv => exec_setbase_nonfinite hp ((F32.isFinite_eq_false_iff v).2 hv),
    fun v s hp hv => exec_push_nonfinite hp ((F32.isFinite_eq_false_iff v).2 hv), Num.real_isFinite, rfl, rfl,
    fun s hp => ?_⟩
  exact ⟨_, _, exec_setbase_of_port hp (by decide), rfl, rfl, exec_setbase_of_port hp (by decide), rfl, rfl⟩

end

/-! ## The assertion and the release of `rst` -/

section
open Sys2Proof Sys2Proof.Machine

namespace Sys2Proof.Machine

/-- A step whose next event asserts `rst`. -/
theorem step_assertReset {s : State} {rest : List Event} (hs : s.schedule = .assertReset :: rest) :
    step s = .next (State.assertReset { s with schedule := rest }) := by
  rw [step, advance, hs]

/-- A step whose next event releases `rst`. -/
theorem step_releaseReset {s : State} {rest : List Event} {c : Cfg}
    (hs : s.schedule = .releaseReset c :: rest) :
    step s = State.releaseReset c { s with schedule := rest } := by
  rw [step, advance, hs]

/-- Under reset no port holds a request (70_reset_and_hazards.md R231). -/
@[simp] theorem State.assertReset_request (s : State) (p : Port) : s.assertReset.request p = none := by
  cases p <;> rfl

/-- A request presented under reset changes nothing (70_reset_and_hazards.md R230). -/
theorem present_of_rst {s : State} (hr : s.rst = true) (p : Port) (r : Request) (again : State) :
    present p r again s = .next s := if_pos hr

/-- A service under reset changes nothing (70_reset_and_hazards.md R230). -/
theorem serve_of_rst {s : State} (hr : s.rst = true) (p : Port) : serve p s = .next s := if_pos hr

/-- A release with a legal `CFG` latches it and leaves its reset state (70_reset_and_hazards.md R230). -/
theorem State.releaseReset_of_legal {s : State} {c : Cfg} (hr : s.rst = true) (hc : legalCfg c = true) :
    s.releaseReset c = .next { State.resetWith c with schedule := s.schedule, arb := s.arb } := by
  rw [State.releaseReset, if_pos hr, if_pos hc]

/-- An instance with an illegal `CFG` is not built (00_scope.md R8). -/
theorem State.releaseReset_of_illegal {s : State} {c : Cfg} (hr : s.rst = true) (hc : legalCfg c = false) :
    s.releaseReset c = .refused .illegalCfg := by
  rw [State.releaseReset, if_pos hr, if_neg (Bool.eq_false_iff.1 hc)]

end Sys2Proof.Machine

/-- Settles O50: the step by its next event, and that event under reset. -/
theorem resetDropsRequestsAndLatchesCfg : Obligations.ResetDropsRequestsAndLatchesCfg := by
  refine ⟨fun s rest hs => ?_, fun s rest p r hr hs => ?_, fun s rest p hr hs => ?_,
    fun s rest c hr hc hs => ?_, fun s rest c hr hc hs => ?_⟩
  · exact ⟨_, step_assertReset hs, State.assertReset_rst _, State.assertReset_request _,
      State.assertReset_responses _⟩
  · exact (step_issue hs).trans (present_of_rst (s := { s with schedule := rest }) hr p r s)
  · exact (step_serve hs).trans (serve_of_rst (s := { s with schedule := rest }) hr p)
  · exact (step_releaseReset hs).trans (State.releaseReset_of_legal (s := { s with schedule := rest }) hr hc)
  · exact (step_releaseReset hs).trans (State.releaseReset_of_illegal (s := { s with schedule := rest }) hr hc)

end
